-- ==== Sys2Proof/Word.lean ====
section
/-! DEFINITION. The word types of the register window and of the wire (00_scope.md R7, 20_memory.md R71). -/

namespace Sys2Proof

/-- A 32-bit word: a register of the window, a command word, an event word. -/
abbrev Word := BitVec 32

/-- An 8-bit byte: a frame byte, a response byte, an operand field. -/
abbrev Byte := BitVec 8

end Sys2Proof
end

