-- ==== Sys2Proof/Config.lean ====
section
/-! DEFINITION. The parameters of the block (00_scope.md R4) and the free values of the model. -/

namespace Sys2Proof

/-- `N_CHAINS`, OPEN in {1, 2, 3} (R4). -/
inductive ChainCount where
  | one
  | two
  | three
deriving DecidableEq, Repr

def ChainCount.toNat : ChainCount → Nat
  | .one => 1
  | .two => 2
  | .three => 3

/-- At most three chains exist (R4), so a chain number below the count indexes three copies. -/
theorem ChainCount.toNat_le_three (n : ChainCount) : n.toNat ≤ 3 := by
  cases n <;> decide

/-- At least one chain exists (R4). -/
theorem ChainCount.toNat_pos (n : ChainCount) : 0 < n.toNat := by
  cases n <;> decide

/-- The OPEN parameters of R4: arguments of the model, fixed for a run (R20). -/
structure Config where
  /-- `N_CHAINS`. -/
  nChains : ChainCount
  /-- `T_BIT`, microseconds. -/
  tBit : Nat
  /-- `T_SAMPLE`, microseconds. -/
  tSample : Nat
  /-- `WPQ_DEPTH`. -/
  wpqDepth : Nat
  /-- `SERVO_READOUT_CODE`. -/
  servoReadoutCode : Byte
deriving DecidableEq, Repr

/-- `T_RESP_FIRST`, microseconds (R4). -/
abbrev tRespFirst : Nat := 3000

/-- `T_RESP_NEXT`, microseconds (R4). -/
abbrev tRespNext : Nat := 1500

/-- `T_TICK`, microseconds (R4). -/
abbrev tTick : Nat := 1000

/-- The ranges R4 puts on the OPEN parameters. -/
abbrev Config.wf (c : Config) : Prop :=
  0 < c.tBit ∧ 0 < c.tSample ∧ c.tSample < tRespNext ∧ 1 ≤ c.wpqDepth

/-- The instance that `State.reset` is the reset state of. `N_CHAINS` and `WPQ_DEPTH` are R4's reference values
(DESIGN CHOICE); `T_BIT`, `T_SAMPLE` and `SERVO_READOUT_CODE` are the spec's general-knowledge examples (PRESUMED).
notes/assumptions/2.md; no statement rests on these values. -/
def Config.reference : Config :=
  { nChains := .one, tBit := 417, tSample := 208, wpqDepth := 16, servoReadoutCode := 0xFA }

/-- FREE VALUE: which of several timed events due at one instant comes first where nothing else says (R282). Applied to
the counter `State.choices`. notes/assumptions/5.md. -/
opaque Config.freeChoice : Nat → Nat

/-- FREE VALUE: what WPCNT reads of a list of 2^32 or more waypoints, a length that `zext_32` gives no value (R7, R74).
Applied to the length. notes/assumptions/20.md. -/
opaque Config.freeCount : Nat → Word

end Sys2Proof
end

