-- ==== Sys2Proof/Syntax.lean ====
section
/-! DEFINITION. The commands and events of spec/opcode_table.json, one constructor per row (30_encoding.md R104, R110). -/

namespace Sys2Proof

/-- The operand fields of a command word beside OP (R100). They are kept whole: a word with fields out of range is still
this command, and its execution raises BAD_OPERAND (R101, R102). -/
structure CmdFields where
  /-- A, bits 15:8. -/
  a : Byte
  /-- B, bits 23:16. -/
  b : Byte
  /-- CH, bits 25:24. -/
  ch : BitVec 2
  /-- RSV, bits 31:26. -/
  rsv : BitVec 6
deriving DecidableEq, Repr

/-- The eleven commands of R104 and the four events of R110. -/
inductive Instr where
  /-- NOP, OP 0x00 (R106). -/
  | nop (f : CmdFields)
  /-- WP_ENQ, OP 0x01 (R240). -/
  | wpEnq (f : CmdFields)
  /-- WP_CLEAR, OP 0x02 (R241). -/
  | wpClear (f : CmdFields)
  /-- MOVE_START, OP 0x03 (R242). -/
  | moveStart (f : CmdFields)
  /-- MOVE_QUERY, OP 0x04 (R243). -/
  | moveQuery (f : CmdFields)
  /-- MOD_SERVO_POS, OP 0x10 (R180). -/
  | modServoPos (f : CmdFields)
  /-- MOD_SERVO_COLOR, OP 0x11 (R181). -/
  | modServoColor (f : CmdFields)
  /-- MOD_SERVO_READOUT, OP 0x12 (R182). -/
  | modServoReadout (f : CmdFields)
  /-- MOD_LED, OP 0x13 (R184). -/
  | modLed (f : CmdFields)
  /-- MOD_QUERY_POS, OP 0x14 (R185). -/
  | modQueryPos (f : CmdFields)
  /-- MOD_BUS_INIT, OP 0x15 (R187). -/
  | modBusInit (f : CmdFields)
  /-- BUS_TIMER, EV 0x80 (R130). -/
  | busTimer (ch : BitVec 2)
  /-- LINE, EV 0x81 (R150). -/
  | line (lv : Bool) (ch : BitVec 2)
  /-- TICK, EV 0x82 (R210). -/
  | tick
  /-- RESET, EV 0x83 (R300). -/
  | reset
deriving DecidableEq, Repr

end Sys2Proof
end

