-- ==== Sys2Proof/WellFormed.lean ====
section
/-! DEFINITION. When the operand fields of a command pass the checks of 30_encoding.md R102 and R104, and when an event
names a chain that exists (R111). MOD_LED's check of ARG0 (R184) depends on the state and is not here. -/

namespace Sys2Proof

/-- CH is in 0 .. N_CHAINS - 1. -/
def chainOk (cfg : Config) (ch : BitVec 2) : Bool := decide (ch.toNat < cfg.nChains.toNat)

/-- The fields an instruction does not use are 0, the fields it uses lie in their ranges, RSV is 0 (R102, R104). NOP has
no checks (R106). -/
def WellFormed (cfg : Config) : Instr → Bool
  | .nop _ => true
  | .wpEnq f | .wpClear f => decide (f.a.toNat ≤ 7) && f.b == 0 && f.ch == 0 && f.rsv == 0
  | .moveStart f => decide (f.a.toNat ≤ 3) && f.b == 0 && f.ch == 0 && f.rsv == 0
  | .moveQuery f => decide (f.a.toNat ≤ 1) && f.b == 0 && f.ch == 0 && f.rsv == 0
  | .modServoPos f => decide (f.a.toNat ≤ 3) && decide (f.b.toNat ≤ 0xEF) && chainOk cfg f.ch && f.rsv == 0
  | .modServoColor f =>
      decide (f.a.toNat ≤ 3) && decide (0xF0 ≤ f.b.toNat) && decide (f.b.toNat ≤ 0xF7) && chainOk cfg f.ch && f.rsv == 0
  | .modServoReadout f | .modQueryPos f => decide (f.a.toNat ≤ 3) && f.b == 0 && chainOk cfg f.ch && f.rsv == 0
  | .modLed f | .modBusInit f => f.a == 0 && f.b == 0 && chainOk cfg f.ch && f.rsv == 0
  | .busTimer ch => chainOk cfg ch
  | .line _ ch => chainOk cfg ch
  | .tick => true
  | .reset => true

end Sys2Proof
end

