-- ==== Sys2Proof/Decode.lean ====
section
/-! DEFINITION. From words to instructions and back: the command word (format C, 30_encoding.md R100, R101, R104), the event
word (format E, R110, R111), their bytes (little-endian, 20_memory.md R73), and the encoder. -/

namespace Sys2Proof

/-- Why a word is no instruction. -/
inductive DecodeError where
  /-- The OP field names no command (R101, R105). -/
  | illegalOp (op : Byte)
  /-- No valid event word: an unknown EV, or a zero field that is not 0 (R111). -/
  | invalidEvent (w : Word)
  /-- Fewer than four bytes: every command and event is one 32-bit word (R107, R110). -/
  | truncated
deriving DecidableEq, Repr

/-- OP (R100) or EV (R110), bits 7:0. -/
def opField (w : Word) : Byte := w.extractLsb' 0 8

/-- CH, bits 25:24 (R100, R110). -/
def chField (w : Word) : BitVec 2 := w.extractLsb' 24 2

/-- LV, bit 8 (R110). -/
def lvField (w : Word) : BitVec 1 := w.extractLsb' 8 1

/-- Bits 23:9 of an event word, zero (R110). -/
def midZeroField (w : Word) : BitVec 15 := w.extractLsb' 9 15

/-- RSV of a command word (R100), and the top zero field of an event word (R110), bits 31:26. -/
def rsvField (w : Word) : BitVec 6 := w.extractLsb' 26 6

/-- A, B, CH and RSV of a command word (R100). -/
def cmdFields (w : Word) : CmdFields :=
  { a := w.extractLsb' 8 8, b := w.extractLsb' 16 8, ch := chField w, rsv := rsvField w }

/-- The decode of a CMD write (R101): it depends on OP alone. -/
def decodeCommand (w : Word) : Except DecodeError Instr :=
  let f := cmdFields w
  if opField w = 0x00#8 then .ok (.nop f)
  else if opField w = 0x01#8 then .ok (.wpEnq f)
  else if opField w = 0x02#8 then .ok (.wpClear f)
  else if opField w = 0x03#8 then .ok (.moveStart f)
  else if opField w = 0x04#8 then .ok (.moveQuery f)
  else if opField w = 0x10#8 then .ok (.modServoPos f)
  else if opField w = 0x11#8 then .ok (.modServoColor f)
  else if opField w = 0x12#8 then .ok (.modServoReadout f)
  else if opField w = 0x13#8 then .ok (.modLed f)
  else if opField w = 0x14#8 then .ok (.modQueryPos f)
  else if opField w = 0x15#8 then .ok (.modBusInit f)
  else .error (.illegalOp (opField w))

/-- The decode of an event word (R110, R111). Whether its chain exists is checked where it is executed. -/
def decodeEvent (w : Word) : Except DecodeError Instr :=
  if midZeroField w = 0 ∧ rsvField w = 0 then
    if opField w = 0x80#8 ∧ lvField w = 0 then .ok (.busTimer (chField w))
    else if opField w = 0x81#8 then .ok (.line (lvField w == 1) (chField w))
    else if opField w = 0x82#8 ∧ lvField w = 0 ∧ chField w = 0 then .ok .tick
    else if opField w = 0x83#8 ∧ lvField w = 0 ∧ chField w = 0 then .ok .reset
    else .error (.invalidEvent w)
  else .error (.invalidEvent w)

/-- OP values 0x80 to 0xFF are the event space and never commands (R105). -/
def isEventWord (w : Word) : Bool := decide (0x80 ≤ (opField w).toNat)

/-- Either kind of word. -/
def decode (w : Word) : Except DecodeError Instr :=
  if isEventWord w then decodeEvent w else decodeCommand w

/-- Four bytes as a word, the first byte the least significant (R73). -/
def wordOfBytes (b0 b1 b2 b3 : Byte) : Word := b3 ++ b2 ++ b1 ++ b0

/-- Byte `k` of a register value, `v[8k+7:8k]` (R73). -/
def byteOfWord (v : Word) (k : Nat) : Byte := v.extractLsb' (8 * k) 8

/-- Decode the first instruction of a list of bytes, total: the instruction and the bytes after it, or a named rejection. -/
def decodeBytes : List Byte → Except DecodeError (Instr × List Byte)
  | b0 :: b1 :: b2 :: b3 :: rest =>
      match decode (wordOfBytes b0 b1 b2 b3) with
      | .ok i => .ok (i, rest)
      | .error e => .error e
  | _ => .error .truncated

/-- A command word from its fields: `RSV << 26 | CH << 24 | B << 16 | A << 8 | OP` (R100). -/
def commandWord (op : Byte) (f : CmdFields) : Word := f.rsv ++ f.ch ++ f.b ++ f.a ++ op

/-- An event word from its fields (R110). -/
def eventWord (ev : Byte) (lv : Bool) (ch : BitVec 2) : Word :=
  0#6 ++ ch ++ 0#15 ++ BitVec.ofBool lv ++ ev

/-- The word of an instruction (R100, R104, R110). -/
def encode : Instr → Word
  | .nop f => commandWord 0x00 f
  | .wpEnq f => commandWord 0x01 f
  | .wpClear f => commandWord 0x02 f
  | .moveStart f => commandWord 0x03 f
  | .moveQuery f => commandWord 0x04 f
  | .modServoPos f => commandWord 0x10 f
  | .modServoColor f => commandWord 0x11 f
  | .modServoReadout f => commandWord 0x12 f
  | .modLed f => commandWord 0x13 f
  | .modQueryPos f => commandWord 0x14 f
  | .modBusInit f => commandWord 0x15 f
  | .busTimer ch => eventWord 0x80 false ch
  | .line lv ch => eventWord 0x81 lv ch
  | .tick => eventWord 0x82 false 0
  | .reset => eventWord 0x83 false 0

/-- The bytes of an instruction, in the order of the window (R73). -/
def encodeBytes (i : Instr) : List Byte :=
  [byteOfWord (encode i) 0, byteOfWord (encode i) 1, byteOfWord (encode i) 2, byteOfWord (encode i) 3]

/-- The word of a table row: the row's `nbits` low bits, every bit above them 0. -/
def tableWord (nbits w : Nat) : Word := BitVec.ofNat 32 (w % 2 ^ nbits)

/-- What the decoder reads from the bytes of the word of a table row. -/
def decodeTableWord (nbits w : Nat) : Option Instr :=
  let v := tableWord nbits w
  match decodeBytes [byteOfWord v 0, byteOfWord v 1, byteOfWord v 2, byteOfWord v 3] with
  | .ok (i, _) => some i
  | .error _ => none

end Sys2Proof
end

