-- ==== Sys2Proof/Machine/Registers.lean ====
section
/-! DEFINITION. The register groups that State is made of (10_state.md): one module chain, one actuator, one motion session,
and what the model records of a run. -/

namespace Sys2Proof.Machine

open Sys2Proof

/-- The direction of a chain's line, `OUT = 1`, `IN = 0` (R23). -/
inductive Dir where
  | input
  | output
deriving DecidableEq, Repr

/-- ModuleBus sequencing state (R28). Value 7 has no name and cannot be held. -/
inductive Phase where
  | start
  | data
  | stop1
  | stop2
  | turn
  | await
  | complete
deriving DecidableEq, Repr

/-- A slot's module type (R36). Value 3 has no name and cannot be held. -/
inductive ModuleType where
  | unknown
  | servo
  | led
deriving DecidableEq, Repr

/-- One slot of a chain's ModuleRegistry (R36 to R39). -/
structure Slot where
  mtype : ModuleType
  /-- The byte sent as data byte `s + 1` of the next frame that latches it. -/
  pending : Byte
  lastInput : Byte
  ledPhase : Bool
deriving DecidableEq, Repr

/-- The registers of one module chain (R23 to R40). -/
structure Chain where
  lineDir : Dir
  lineOut : Bool
  lineIn : Bool
  /-- The instant, in microseconds, of the next expiry of the bit timer (R26). -/
  busDeadline : Nat
  edgeArmed : Bool
  phase : Phase
  byteIndex : Fin 6
  bitMask : Byte
  shiftReg : Byte
  cs : Byte
  timeoutFlag : Bool
  slotIndex : Fin 4
  lpValid : Bool
  lpSlot : Fin 4
  slots : Vector Slot 4
  /-- `led_pair[c][0]` and `led_pair[c][1]` (R40). -/
  ledPair0 : Byte
  ledPair1 : Byte
deriving DecidableEq, Repr

/-- A waypoint (R54): offsets in ticks from the start of the session, and an absolute position. -/
structure Waypoint where
  start : Word
  stop : Word
  target : Word
deriving DecidableEq, Repr

/-- One actuator: its WaypointList (R54), its cached position (R57) and the last value sent to it (R58). -/
structure Actuator where
  list : List Waypoint
  actual : Word
  outReg : Word
deriving DecidableEq, Repr

/-- One arm's MotionSession (R52, R53). -/
structure Session where
  active : Bool
  ref : Word
deriving DecidableEq, Repr

/-- One record `(t, i, v)` of the output trace (R21, R292). -/
structure OutRecord where
  t : Nat
  act : Fin 8
  value : Word
deriving DecidableEq, Repr

/-- What one host read returned (R290). The model's own record. -/
structure HostRead where
  t : Nat
  off : Byte
  size : Nat
  value : Word
deriving DecidableEq, Repr

/-- One step to come: an event of R275, or an advance of time (R281). -/
inductive Input where
  /-- `RegWrite(off, size, v)` (R72, R76). -/
  | write (off : Byte) (size : Nat) (v : Word)
  /-- `RegRead(off, size)` (R72, R75). -/
  | read (off : Byte) (size : Nat)
  /-- An event word (R110). -/
  | event (w : Word)
  /-- Time advances to the instant `t'` (R281). -/
  | advance (t' : Nat)
deriving DecidableEq, Repr

/-- A slot's reset values (R36 to R39). -/
def Slot.resetValue : Slot :=
  { mtype := .unknown, pending := 0xFE, lastInput := 0x00, ledPhase := false }

/-- A chain's reset values (R23 to R40), with the level of the line and the deadline given. -/
def Chain.resetWith (lineIn : Bool) (deadline : Nat) : Chain :=
  { lineDir := .output, lineOut := true, lineIn := lineIn, busDeadline := deadline, edgeArmed := false
    phase := .start, byteIndex := 0, bitMask := 0x00, shiftReg := 0x00, cs := 0x00, timeoutFlag := false
    slotIndex := 0, lpValid := false, lpSlot := 0
    slots := #v[Slot.resetValue, Slot.resetValue, Slot.resetValue, Slot.resetValue]
    ledPair0 := 0x00, ledPair1 := 0x40 }

/-- An actuator's reset values (R54, R57, R58). -/
def Actuator.resetValue : Actuator := { list := [], actual := 0, outReg := 0 }

/-- A session's reset values (R52, R53). -/
def Session.resetValue : Session := { active := false, ref := 0 }

end Sys2Proof.Machine
end

