-- ==== Sys2Proof/Machine/State.lean ====
section
/-! DEFINITION. The state of the machine (10_state.md), its faults and refusals, and the state right after RESET
(70_reset_and_hazards.md R300). -/

namespace Sys2Proof.Machine

open Sys2Proof

/-- Every register of 10_state.md, and what a run carries beside them: the parameters (R4, R20), the time and the output
trace (R21), and the model's own fields `inputs`, `reads` and `choices`. Chain `c` exists if `c < N_CHAINS`. -/
structure State where
  /-- The parameters, fixed for a run (R4, R20). -/
  cfg : Config
  /-- Whether the first RESET has come (R301). -/
  started : Bool
  /-- Simulated time in microseconds (R6). -/
  t : Nat
  /-- The chains' registers (R23 to R40). -/
  chains : Vector Chain 3
  /-- The tick counter (R50). -/
  now : Word
  /-- The instant of the next motion tick (R51). -/
  nextTick : Nat
  /-- The arms' sessions (R52, R53): arm 0 left, arm 1 right (R56). -/
  sessions : Vector Session 2
  /-- The actuators (R54, R57, R58): 0 to 3 of arm 0, 4 to 7 of arm 1 (R56). -/
  acts : Vector Actuator 8
  /-- ARG0, ARG1, ARG2 (R60). -/
  arg0 : Word
  arg1 : Word
  arg2 : Word
  /-- RESULT (R61). -/
  result : Word
  /-- ERR (R62, R78). -/
  err : Word
  /-- The output trace, oldest record first (R21). -/
  trace : List OutRecord
  /-- What host reads returned, oldest first. The model's own. -/
  reads : List HostRead
  /-- The events still to come, next first. The model's own. -/
  inputs : List Input
  /-- The counter that `Config.freeChoice` is applied to. The model's own. -/
  choices : Nat
deriving DecidableEq, Repr

/-- A step that is no behaviour of the block (93_implementation_defined.md I20): stuck. -/
inductive Fault where
  /-- A timed event (BUS_TIMER or TICK) at an instant other than its deadline (R281). Raised by execBusTimer and execTick.
  Safe: the block has no such step. -/
  | notDue
  /-- Time to advance to an instant that is not later (R281). Raised by advanceTo. Safe: the block has no such step. -/
  | timeNotLater
  /-- Time to advance past a deadline that has not fired (R281). Raised by advanceTo. Safe: the block has no such step. -/
  | deadlinePassed
deriving DecidableEq, Repr

/-- An input the model has no meaning for. -/
inductive Refusal where
  /-- An instruction without a meaning yet. Raised in exec's arms only. Safe. -/
  | notModelled (mnemonic : String)
  /-- Any event but RESET before the first RESET (R301, I19). Raised by whenStarted. Safe: the spec refuses it. -/
  | beforeReset
  /-- A word that is no event word (R111, I18). Raised by eventStep. Safe: the spec refuses it. -/
  | invalidEventWord
  /-- An event of a chain at or above N_CHAINS (R111, I18). Raised by onChain. Safe: the spec refuses it. -/
  | noSuchChain
deriving DecidableEq, Repr

/-- What a step or a meaning answers. -/
abbrev StepOutcome := Host.Outcome State Fault Refusal

/-- The state right after a RESET at `t_reset` of the block with these parameters (R300), nothing recorded and no input to
come. -/
def State.resetAt (cfg : Config) (tReset : Nat) : State :=
  { cfg := cfg, started := true, t := tReset
    chains := #v[Chain.resetWith true (tReset + cfg.tBit), Chain.resetWith true (tReset + cfg.tBit),
      Chain.resetWith true (tReset + cfg.tBit)]
    now := 0, nextTick := tReset + tTick
    sessions := #v[Session.resetValue, Session.resetValue]
    acts := #v[Actuator.resetValue, Actuator.resetValue, Actuator.resetValue, Actuator.resetValue,
      Actuator.resetValue, Actuator.resetValue, Actuator.resetValue, Actuator.resetValue]
    arg0 := 0, arg1 := 0, arg2 := 0, result := 0, err := 0
    trace := [], reads := [], inputs := [], choices := 0 }

/-- The machine right after the RESET at `t = 0` that begins a run (R300, R301), with the reference parameters
(notes/assumptions/2.md). -/
def State.reset : State := State.resetAt Config.reference 0

end Sys2Proof.Machine
end

