-- ==== Sys2Proof/Machine/Flags.lean ====
section
/-! DEFINITION. ERR: its flags, raising one, clearing by writing 1 (20_memory.md R76, R78; 00_scope.md R9). -/

namespace Sys2Proof.Machine

open Sys2Proof

/-- The error flags (R78, R272). -/
inductive ErrFlag where
  | illegalCmd
  | badOperand
  | queueFull
  | badAccess
  | windowErr (i : Fin 8)
deriving DecidableEq, Repr

/-- The bit of ERR that a flag is (R78). -/
def ErrFlag.bit : ErrFlag → Nat
  | .illegalCmd => 0
  | .badOperand => 1
  | .queueFull => 2
  | .badAccess => 3
  | .windowErr i => 8 + i.val

/-- The bit value of a flag (R272). -/
def ErrFlag.mask (e : ErrFlag) : Word := 1#32 <<< e.bit

/-- `ERR_MASK` (R78). -/
def errMask : Word := 0x0000FF0F

/-- ERR after a host write of `v` to it: write-1-to-clear (R76). -/
def errAfterWrite (err v : Word) : Word := err &&& ~~~(v &&& errMask)

/-- `raise Err(F)` (R9): set one bit of ERR, nothing else. -/
def State.raiseErr (s : State) (e : ErrFlag) : State := { s with err := s.err ||| e.mask }

end Sys2Proof.Machine
end

