-- ==== Sys2Proof/Machine/Ops.lean ====
section
/-! DEFINITION. The named operations over the registers: the primitives of 00_scope.md R9, updates of one chain, actuator or
arm, and the shapes every meaning has. The block has no trap entry and no return (60_exceptions.md R284); what it has in
their place is `State.raiseErr` (Flags.lean). -/

namespace Sys2Proof.Machine

open Sys2Proof

/-- `drive(c, lv)` (R9). -/
def Chain.drive (ch : Chain) (lv : Bool) : Chain := { ch with lineOut := lv }

/-- `set_dir(c, d)` (R9). -/
def Chain.setDir (ch : Chain) (d : Dir) : Chain := { ch with lineDir := d }

/-- `sample(c)` (R9). -/
def Chain.sample (ch : Chain) : Bool := ch.lineIn

/-- `arm(c, dur)` at the instant `t` (R9). -/
def Chain.arm (ch : Chain) (t dur : Nat) : Chain := { ch with busDeadline := t + dur }

/-- `edge_on(c)` (R9). -/
def Chain.edgeOn (ch : Chain) : Chain := { ch with edgeArmed := true }

/-- `edge_off(c)` (R9). -/
def Chain.edgeOff (ch : Chain) : Chain := { ch with edgeArmed := false }

/-- Change one slot of a chain. -/
def Chain.updSlot (ch : Chain) (s : Fin 4) (f : Slot → Slot) : Chain :=
  { ch with slots := ch.slots.set s (f ch.slots[s]) }

/-- Write `pending[c][s]` (R37). -/
def Chain.setPending (ch : Chain) (s : Fin 4) (b : Byte) : Chain :=
  ch.updSlot s fun sl => { sl with pending := b }

/-- `led_pair[c][p]` (R40). -/
def Chain.ledPair (ch : Chain) (p : Bool) : Byte := if p then ch.ledPair1 else ch.ledPair0

/-- Change one chain. -/
def State.updChain (s : State) (c : Fin 3) (f : Chain → Chain) : State :=
  { s with chains := s.chains.set c (f s.chains[c]) }

/-- Change one actuator. -/
def State.updAct (s : State) (i : Fin 8) (f : Actuator → Actuator) : State :=
  { s with acts := s.acts.set i (f s.acts[i]) }

/-- Change one session. -/
def State.updSession (s : State) (a : Fin 2) (f : Session → Session) : State :=
  { s with sessions := s.sessions.set a (f s.sessions[a]) }

/-- `out(i, v)` (R9): the register and one record of the trace, equal value or not (R292). -/
def State.out (s : State) (i : Fin 8) (v : Word) : State :=
  { s.updAct i fun x => { x with outReg := v } with trace := s.trace ++ [{ t := s.t, act := i, value := v }] }

/-- The four actuators of an arm, `4a .. 4a + 3` (R56). -/
def armActuators (a : Fin 2) : List (Fin 8) :=
  if a = 0 then [0, 1, 2, 3] else [4, 5, 6, 7]

/-- The arm of an actuator, `floor(i / 4)` (R56). -/
def armOf (i : Fin 8) : Fin 2 := if i.val < 4 then 0 else 1

/-- The existing chain that a CH field names, if it names one (R4, R102, R111). -/
def chainIndex (cfg : Config) (ch : BitVec 2) : Option (Fin 3) :=
  if h : ch.toNat < cfg.nChains.toNat then
    some ⟨ch.toNat, Nat.lt_of_lt_of_le h cfg.nChains.toNat_le_three⟩
  else none

/-- Whether chain `c` exists (R4). -/
def State.hasChain (s : State) (c : Fin 3) : Bool := decide (c.val < s.cfg.nChains.toNat)

/-- Every event but RESET is refused before the first RESET (R301). -/
def whenStarted (s : State) (r : StepOutcome) : StepOutcome :=
  if s.started then r else .refused .beforeReset

/-- The shape of a command (R101, R102): with operands that fail a check it raises BAD_OPERAND and does nothing else; with
good operands it has its effect. `ops` is read before any effect. -/
def command {α : Type} (s : State) (ops : Option α) (eff : α → State) : StepOutcome :=
  whenStarted s <|
    match ops with
    | none => .next (s.raiseErr .badOperand)
    | some x => .next (eff x)

/-- The shape of an event of one chain: refused where the chain does not exist (R111). -/
def onChain (s : State) (ch : BitVec 2) (eff : Fin 3 → StepOutcome) : StepOutcome :=
  whenStarted s <|
    match chainIndex s.cfg ch with
    | none => .refused .noSuchChain
    | some c => eff c

/-- A timed event may occur only at its deadline (R281). -/
def atDeadline (s : State) (deadline : Nat) (s' : State) : StepOutcome :=
  if s.t = deadline then .next s' else .fault .notDue

end Sys2Proof.Machine
end

