-- ==== Sys2Proof/Machine/Operands.lean ====
section
/-! DEFINITION. The operand forms of the commands (30_encoding.md R102 to R104): each reads the fields a command uses and
answers nothing where a check fails. -/

namespace Sys2Proof.Machine

open Sys2Proof

/-- `act = A` in 0..7; B, CH and RSV are 0 (WP_ENQ, WP_CLEAR). -/
def actOperand (f : CmdFields) : Option (Fin 8) :=
  if h : f.a.toNat < 8 then
    if f.b = 0 ∧ f.ch = 0 ∧ f.rsv = 0 then some ⟨f.a.toNat, h⟩ else none
  else none

/-- `mask = A` in 0..3, bit 0 left, bit 1 right; B, CH and RSV are 0 (MOVE_START). -/
def maskOperand (f : CmdFields) : Option (BitVec 2) :=
  if f.a.toNat ≤ 3 ∧ f.b = 0 ∧ f.ch = 0 ∧ f.rsv = 0 then some (f.a.extractLsb' 0 2) else none

/-- `arm = A` in 0..1; B, CH and RSV are 0 (MOVE_QUERY). -/
def armOperand (f : CmdFields) : Option (Fin 2) :=
  if h : f.a.toNat < 2 then
    if f.b = 0 ∧ f.ch = 0 ∧ f.rsv = 0 then some ⟨f.a.toNat, h⟩ else none
  else none

/-- `slot = A` in 0..3. -/
def slotIndexOf (a : Byte) : Option (Fin 4) :=
  if h : a.toNat < 4 then some ⟨a.toNat, h⟩ else none

/-- `ch = CH` below N_CHAINS and `slot = A` in 0..3; RSV is 0 (the module commands with a slot). -/
def chainSlotOperand (cfg : Config) (f : CmdFields) : Option (Fin 3 × Fin 4) :=
  match chainIndex cfg f.ch, slotIndexOf f.a with
  | some c, some s => if f.rsv = 0 then some (c, s) else none
  | _, _ => none

/-- A chain and slot, and `pos = B` in 0x00..0xEF (MOD_SERVO_POS). -/
def servoPosOperand (cfg : Config) (f : CmdFields) : Option ((Fin 3 × Fin 4) × Byte) :=
  if f.b.toNat ≤ 0xEF then (chainSlotOperand cfg f).map fun x => (x, f.b) else none

/-- A chain and slot, and `color = B` in 0xF0..0xF7 (MOD_SERVO_COLOR). -/
def servoColorOperand (cfg : Config) (f : CmdFields) : Option ((Fin 3 × Fin 4) × Byte) :=
  if 0xF0 ≤ f.b.toNat ∧ f.b.toNat ≤ 0xF7 then (chainSlotOperand cfg f).map fun x => (x, f.b) else none

/-- A chain and slot; B is 0 (MOD_SERVO_READOUT, MOD_QUERY_POS). -/
def chainSlotOnlyOperand (cfg : Config) (f : CmdFields) : Option (Fin 3 × Fin 4) :=
  if f.b = 0 then chainSlotOperand cfg f else none

/-- A chain; A, B and RSV are 0 (MOD_BUS_INIT). -/
def chainOperand (cfg : Config) (f : CmdFields) : Option (Fin 3) :=
  if f.a = 0 ∧ f.b = 0 ∧ f.rsv = 0 then chainIndex cfg f.ch else none

/-- The LED fields of ARG0 (R103, R184). -/
structure LedFields where
  red : BitVec 3
  green : BitVec 3
  blue : BitVec 3
  fade : BitVec 3
deriving DecidableEq, Repr

/-- `red = ARG0[2:0]`, `green = ARG0[6:4]`, `blue = ARG0[10:8]`, `fade = ARG0[14:12]` (R103). -/
def ledFields (arg0 : Word) : LedFields :=
  { red := arg0.extractLsb' 0 3, green := arg0.extractLsb' 4 3, blue := arg0.extractLsb' 8 3, fade := arg0.extractLsb' 12 3 }

/-- A chain and the LED fields; A, B and RSV are 0, and no bit of ARG0 outside the four fields is set (MOD_LED, R184). -/
def ledOperand (cfg : Config) (f : CmdFields) (arg0 : Word) : Option (Fin 3 × LedFields) :=
  if arg0 &&& ~~~0x00007777#32 = 0 then (chainOperand cfg f).map fun c => (c, ledFields arg0) else none

end Sys2Proof.Machine
end

