-- ==== Sys2Proof/Machine/Bus.lean ====
section
/-! DEFINITION. ModuleBus: the bus timer's handlers, the checksum, the interpretation of a response and the line with its edge
detector (41_module_bus.md). Every handler is a function of one chain, the parameters and the instant (R154). -/

namespace Sys2Proof.Machine

open Sys2Proof

/-- `checksum_byte(S, slot)` (R136), in 8-bit arithmetic, the no-op step kept. -/
def checksumByte (sum : Byte) (slot : Fin 4) : Byte :=
  let x := sum
  let x := x + (x >>> 8)
  let x := x + (x <<< 4)
  let x := x &&& 0xF0
  x ||| BitVec.ofNat 8 slot.val

/-- The byte that the START of frame byte `byte_index` latches (R131, R133). -/
def Chain.frameByte (ch : Chain) : Byte :=
  let k := ch.byteIndex
  if k.val = 0 then 0xFF
  else if h : k.val ≤ 4 then (ch.slots[k.val - 1]'(by omega)).pending
  else checksumByte ch.cs ch.slotIndex

/-- START: the start bit, and the latch of the byte (R131). -/
def Chain.onStart (ch : Chain) (cfg : Config) (t : Nat) : Chain :=
  let b := ch.frameByte
  let cs' := if ch.byteIndex.val = 0 then 0x00 else if ch.byteIndex.val ≤ 4 then ch.cs + b else b
  let ch := (ch.setDir .output).drive false
  { ch with shiftReg := b, cs := cs', bitMask := 0x01, phase := .data }.arm t cfg.tBit

/-- DATA: one data bit, least significant first (R134). -/
def Chain.onData (ch : Chain) (cfg : Config) (t : Nat) : Chain :=
  let m := ch.bitMask
  let ch := ch.drive (ch.shiftReg &&& m != 0)
  { ch with bitMask := m <<< 1, phase := if m = 0x80 then .stop1 else ch.phase }.arm t cfg.tBit

/-- STOP1: the first stop bit (R137). -/
def Chain.onStop1 (ch : Chain) (cfg : Config) (t : Nat) : Chain :=
  { ch.drive true with phase := .stop2 }.arm t cfg.tBit

/-- STOP2: the second stop bit, then the next byte or the turnaround (R138). -/
def Chain.onStop2 (ch : Chain) (cfg : Config) (t : Nat) : Chain :=
  let ch := ch.drive true
  let ch :=
    if h : ch.byteIndex.val < 5 then { ch with byteIndex := ⟨ch.byteIndex.val + 1, by omega⟩, phase := .start }
    else { ch with phase := .turn }
  ch.arm t cfg.tBit

/-- TURN: the line turns to input and the first response window opens (R139). -/
def Chain.onTurn (ch : Chain) (t : Nat) : Chain :=
  let ch := ch.setDir .input
  ({ ch with shiftReg := 0x00, bitMask := 0x01, timeoutFlag := true, phase := .await }.edgeOn).arm t tRespFirst

/-- AWAIT with `timeout_flag = 1`: no edge came, the cycle ends (R141). -/
def Chain.onTimeout (ch : Chain) (cfg : Config) (t : Nat) : Chain :=
  { ch.edgeOff with slotIndex := ch.slotIndex + 1, lpValid := false, byteIndex := 0, phase := .start }.arm t cfg.tBit

/-- AWAIT with `timeout_flag = 0`: one response bit is sampled (R142). -/
def Chain.onSample (ch : Chain) (cfg : Config) (t : Nat) : Chain :=
  let m := ch.bitMask
  let ch := { ch with shiftReg := if ch.sample then ch.shiftReg ||| m else ch.shiftReg, bitMask := m <<< 1 }
  if m ≠ 0x80 then ({ ch with timeoutFlag := true }.edgeOn).arm t tRespNext
  else { ch with phase := .complete }.arm t cfg.tBit

/-- `interpret(c, s, r)` (R146), the cases in their order. -/
def Chain.interpret (ch : Chain) (s : Fin 4) (r : Byte) : Chain :=
  let ty := ch.slots[s].mtype
  if r = 0x00 then
    { ch with
      slots := Vector.ofFn fun k =>
        if s ≤ k then { ch.slots[k] with mtype := .unknown, pending := 0xFE, ledPhase := false } else ch.slots[k] }
  else if ty = .led then
    let p := !ch.slots[s].ledPhase
    ch.updSlot s fun sl => { sl with ledPhase := p, pending := ch.ledPair p }
  else if r = 0xFE then ch.setPending s 0xFC
  else if r = 0x01 ∧ ty = .unknown then ch.updSlot s fun sl => { sl with mtype := .servo, pending := 0xF4 }
  else if r = 0x02 ∧ ty = .unknown then
    ch.updSlot s fun sl => { sl with mtype := .led, ledPhase := false, pending := ch.ledPair false }
  else ch

/-- COMPLETE: the response is interpreted and recorded, and the next slot's cycle begins (R145). -/
def Chain.onComplete (ch : Chain) (cfg : Config) (t : Nat) : Chain :=
  let s := ch.slotIndex
  let r := ch.shiftReg
  let ch := (ch.interpret s r).updSlot s fun sl => { sl with lastInput := r }
  { ch with lpValid := true, lpSlot := s, slotIndex := s + 1, byteIndex := 0, phase := .start }.arm t cfg.tBit

/-- The handler of the chain's phase (R130, R153). -/
def Chain.onTimer (ch : Chain) (cfg : Config) (t : Nat) : Chain :=
  match ch.phase with
  | .start => ch.onStart cfg t
  | .data => ch.onData cfg t
  | .stop1 => ch.onStop1 cfg t
  | .stop2 => ch.onStop2 cfg t
  | .turn => ch.onTurn t
  | .await => if ch.timeoutFlag then ch.onTimeout cfg t else ch.onSample cfg t
  | .complete => ch.onComplete cfg t

/-- `edge_action(c)` (R151). -/
def Chain.edgeAction (ch : Chain) (cfg : Config) (t : Nat) : Chain :=
  ({ ch with timeoutFlag := false }.edgeOff).arm t cfg.tSample

/-- The environment presents the level `v` (R150). -/
def Chain.onLine (ch : Chain) (cfg : Config) (t : Nat) (v : Bool) : Chain :=
  let old := ch.lineIn
  let ch := { ch with lineIn := v }
  if old = false ∧ v = true ∧ ch.edgeArmed = true then ch.edgeAction cfg t else ch

/-- BUS_TIMER (R130): the handler of the chain's phase, at the chain's deadline only. -/
def execBusTimer (ch : BitVec 2) (s : State) : StepOutcome :=
  onChain s ch fun c =>
    atDeadline s s.chains[c].busDeadline (s.updChain c fun x => x.onTimer s.cfg s.t)

/-- LINE (R150), at any instant. -/
def execLine (lv : Bool) (ch : BitVec 2) (s : State) : StepOutcome :=
  onChain s ch fun c => .next (s.updChain c fun x => x.onLine s.cfg s.t lv)

end Sys2Proof.Machine
end

