-- ==== Sys2Proof/Machine/ModuleCommands.lean ====
section
/-! DEFINITION. The ModuleRegistry commands (42_module_commands.md). -/

namespace Sys2Proof.Machine

open Sys2Proof

/-- `clamp(pos, 0x18, 0xE8)` (R180, R7). -/
def clampPos (pos : Byte) : Byte :=
  BitVec.ofNat 8 (min (max pos.toNat 0x18) 0xE8)

/-- byte1 of MOD_LED (R184). -/
def ledByte1 (f : LedFields) : Byte :=
  (((f.green.setWidth 8) <<< 3) &&& 0x38) ||| (f.red.setWidth 8 &&& 0x07)

/-- byte2 of MOD_LED (R184). -/
def ledByte2 (f : LedFields) : Byte :=
  0x40 ||| (((f.fade.setWidth 8) <<< 3) &&& 0x38) ||| (f.blue.setWidth 8 &&& 0x07)

/-- The last position a servo reported, or 0x00 (R185). -/
def Chain.reportedPos (ch : Chain) (s : Fin 4) : Byte :=
  if ch.slots[s].mtype = .servo ∧ ch.lpValid = true ∧ ch.lpSlot = s then ch.slots[s].lastInput else 0x00

/-- MOD_SERVO_POS (R180): applied whatever the slot's type. -/
def execModServoPos (f : CmdFields) (s : State) : StepOutcome :=
  command s (servoPosOperand s.cfg f) fun x => s.updChain x.1.1 fun ch => ch.setPending x.1.2 (clampPos x.2)

/-- MOD_SERVO_COLOR (R181): no effect on a slot that is not a servo. -/
def execModServoColor (f : CmdFields) (s : State) : StepOutcome :=
  command s (servoColorOperand s.cfg f) fun x =>
    s.updChain x.1.1 fun ch => if ch.slots[x.1.2].mtype = .servo then ch.setPending x.1.2 x.2 else ch

/-- MOD_SERVO_READOUT (R182): applied whatever the slot's type. -/
def execModServoReadout (f : CmdFields) (s : State) : StepOutcome :=
  command s (chainSlotOnlyOperand s.cfg f) fun x =>
    s.updChain x.1 fun ch => ch.setPending x.2 s.cfg.servoReadoutCode

/-- MOD_LED (R184): the chain's pair, no pending byte. -/
def execModLed (f : CmdFields) (s : State) : StepOutcome :=
  command s (ledOperand s.cfg f s.arg0) fun x =>
    s.updChain x.1 fun ch => { ch with ledPair0 := ledByte1 x.2, ledPair1 := ledByte2 x.2 }

/-- MOD_QUERY_POS (R185). -/
def execModQueryPos (f : CmdFields) (s : State) : StepOutcome :=
  command s (chainSlotOnlyOperand s.cfg f) fun x =>
    { s with result := (s.chains[x.1].reportedPos x.2).setWidth 32 }

/-- MOD_BUS_INIT (R187): the chain's reset values, `line_in` kept. -/
def execModBusInit (f : CmdFields) (s : State) : StepOutcome :=
  command s (chainOperand s.cfg f) fun c =>
    s.updChain c fun ch => Chain.resetWith ch.lineIn (s.t + s.cfg.tBit)

end Sys2Proof.Machine
end

