-- ==== Sys2Proof/Machine/Motion.lean ====
section
/-! DEFINITION. MotionScheduler: the tick, the ramp and the retirement of waypoints (43_motion_scheduler.md). -/

namespace Sys2Proof.Machine

open Sys2Proof

/-- `ramp(x, g, d, rem)` (R212), exact on naturals; `1 <= rem <= d`. -/
def ramp (x g : Word) (d rem : Int) : Word :=
  let k := (d - rem).toNat
  if x.toNat ≤ g.toNat then BitVec.ofNat 32 (x.toNat + (g.toNat - x.toNat) * k / d.toNat)
  else BitVec.ofNat 32 (x.toNat - (x.toNat - g.toNat) * k / d.toNat)

/-- `complete(i, w, d, rem)` (R214, R215): snap, record, retire the head, and flag a window that was none. -/
def State.completeHead (s : State) (i : Fin 8) (w : Waypoint) (d rem : Int) : State :=
  let s := s.updAct i fun x => { x with actual := w.target, list := x.list.tail }
  let s := s.out i w.target
  if d ≤ 0 ∧ rem ≠ 0 then s.raiseErr (.windowErr i) else s

/-- Ticks since the session of arm `a` started (R211). -/
def State.elapsed (s : State) (a : Fin 2) : Word := s.now - s.sessions[a].ref

/-- `step_actuator(i, a)` (R211); an empty list is skipped (R210). -/
def State.stepActuator (s : State) (a : Fin 2) (i : Fin 8) : State :=
  match s.acts[i].list with
  | [] => s
  | w :: _ =>
      let e := s.elapsed a
      if e.toNat < w.start.toNat then s
      else
        let d : Int := (w.stop.toNat : Int) - w.start.toNat
        let rem : Int := (w.stop.toNat : Int) - e.toNat
        if rem ≤ 0 then s.completeHead i w d rem
        else s.out i (ramp s.acts[i].actual w.target d rem)

/-- Whether every list of the arm is empty (R217). -/
def State.armEmpty (s : State) (a : Fin 2) : Bool := (armActuators a).all fun i => s.acts[i].list.isEmpty

/-- One arm's part of a tick (R210): nothing while inactive (R218); otherwise its actuators in ascending order, and the
session ends where every list was empty when examined (R217). -/
def State.tickArm (s : State) (a : Fin 2) : State :=
  if s.sessions[a].active then
    if s.armEmpty a then s.updSession a fun x => { x with active := false }
    else (armActuators a).foldl (fun s i => s.stepActuator a i) s
  else s

/-- The effect of a tick (R210): time first, then arm 0, then arm 1. -/
def State.tick (s : State) : State :=
  let s := { s with now := s.now + 1, nextTick := s.nextTick + tTick }
  (s.tickArm 0).tickArm 1

/-- TICK (R210), at `next_tick` only. -/
def execTick (s : State) : StepOutcome :=
  whenStarted s (atDeadline s s.nextTick s.tick)

end Sys2Proof.Machine
end

