-- ==== Sys2Proof/Machine/MotionCommands.lean ====
section
/-! DEFINITION. The WaypointList and MotionSession commands (44_motion_commands.md). -/

namespace Sys2Proof.Machine

open Sys2Proof

/-- Insert before the first waypoint whose start is not smaller, or at the tail (R240). -/
def insertWaypoint (w : Waypoint) : List Waypoint → List Waypoint
  | [] => [w]
  | v :: vs => if w.start.toNat ≤ v.start.toNat then w :: v :: vs else v :: insertWaypoint w vs

/-- The waypoint that ARG0 to ARG2 hold (R103). -/
def State.argWaypoint (s : State) : Waypoint := { start := s.arg0, stop := s.arg1, target := s.arg2 }

/-- WP_ENQ (R240): QUEUE_FULL on a full list, and then no change. -/
def execWpEnq (f : CmdFields) (s : State) : StepOutcome :=
  command s (actOperand f) fun i =>
    if s.acts[i].list.length = s.cfg.wpqDepth then s.raiseErr .queueFull
    else s.updAct i fun x => { x with list := insertWaypoint s.argWaypoint x.list }

/-- WP_CLEAR (R241). -/
def execWpClear (f : CmdFields) (s : State) : StepOutcome :=
  command s (actOperand f) fun i => s.updAct i fun x => { x with list := [] }

/-- MOVE_START's effect on one arm (R242): the snapshot, the reference time, the active flag. -/
def State.startArm (s : State) (a : Fin 2) : State :=
  let s := (armActuators a).foldl (fun s i => s.updAct i fun x => { x with actual := x.outReg }) s
  s.updSession a fun _ => { active := true, ref := s.now }

/-- MOVE_START (R242): arm 0 if mask bit 0, arm 1 if mask bit 1. -/
def execMoveStart (f : CmdFields) (s : State) : StepOutcome :=
  command s (maskOperand f) fun m =>
    let s := if m.getLsbD 0 then s.startArm 0 else s
    if m.getLsbD 1 then s.startArm 1 else s

/-- MOVE_QUERY (R243). -/
def execMoveQuery (f : CmdFields) (s : State) : StepOutcome :=
  command s (armOperand f) fun a => { s with result := (BitVec.ofBool s.sessions[a].active).setWidth 32 }

end Sys2Proof.Machine
end

