-- ==== Sys2Proof/Machine/System.lean ====
section
/-! DEFINITION. NOP (30_encoding.md R106) and RESET (70_reset_and_hazards.md R300). -/

namespace Sys2Proof.Machine

open Sys2Proof

/-- NOP (R106): no checks, no effect, whatever the other 24 bits hold. -/
def execNop (_f : CmdFields) (s : State) : StepOutcome :=
  whenStarted s (.next s)

/-- RESET (R300) at the present instant: every register to its reset value. The parameters (R20), the time (R6), the output
trace (R300) and the model's own records are no registers and stay. -/
def execReset (s : State) : StepOutcome :=
  .next
    { State.resetAt s.cfg s.t with
      trace := s.trace, reads := s.reads, inputs := s.inputs, choices := s.choices }

end Sys2Proof.Machine
end

