-- ==== Sys2Proof/Machine/Dispatch.lean ====
section
/-! DEFINITION. The meaning of every command and event (30_encoding.md R104, R110): one arm per constructor. -/

namespace Sys2Proof.Machine

open Sys2Proof

def exec (i : Instr) (s : State) : Host.Outcome State Fault Refusal :=
  match i with
  | .nop f => Sys2Proof.Machine.execNop f s
  | .wpEnq f => Sys2Proof.Machine.execWpEnq f s
  | .wpClear f => Sys2Proof.Machine.execWpClear f s
  | .moveStart f => Sys2Proof.Machine.execMoveStart f s
  | .moveQuery f => Sys2Proof.Machine.execMoveQuery f s
  | .modServoPos f => Sys2Proof.Machine.execModServoPos f s
  | .modServoColor f => Sys2Proof.Machine.execModServoColor f s
  | .modServoReadout f => Sys2Proof.Machine.execModServoReadout f s
  | .modLed f => Sys2Proof.Machine.execModLed f s
  | .modQueryPos f => Sys2Proof.Machine.execModQueryPos f s
  | .modBusInit f => Sys2Proof.Machine.execModBusInit f s
  | .busTimer ch => Sys2Proof.Machine.execBusTimer ch s
  | .line lv ch => Sys2Proof.Machine.execLine lv ch s
  | .tick => Sys2Proof.Machine.execTick s
  | .reset => Sys2Proof.Machine.execReset s

end Sys2Proof.Machine
end

