-- ==== Sys2Proof/Machine/Window.lean ====
section
/-! DEFINITION. The register window as the host reads it (20_memory.md): the readback words (R79 to R81), the register map
(R74, R82), well-formedness of an access (R71) and a read (R72, R75). -/

namespace Sys2Proof.Machine

open Sys2Proof

/-- The bit of a direction (R23). -/
def Dir.bit : Dir → BitVec 1
  | .input => 0
  | .output => 1

/-- The encoding of a phase (R28). -/
def Phase.code : Phase → BitVec 3
  | .start => 0
  | .data => 1
  | .stop1 => 2
  | .stop2 => 3
  | .turn => 4
  | .await => 5
  | .complete => 6

/-- The encoding of a module type (R36). -/
def ModuleType.code : ModuleType → BitVec 2
  | .unknown => 0
  | .servo => 1
  | .led => 2

/-- BUS_STATE[c] (R81). -/
def Chain.busStateWord (ch : Chain) : Word :=
  0#3 ++ BitVec.ofBool ch.lineIn ++ BitVec.ofBool ch.lineOut ++ ch.lineDir.bit
    ++ BitVec.ofNat 2 ch.slotIndex.val ++ ch.shiftReg ++ ch.bitMask
    ++ BitVec.ofBool ch.edgeArmed ++ BitVec.ofBool ch.timeoutFlag ++ BitVec.ofNat 3 ch.byteIndex.val ++ ch.phase.code

/-- BUS_AUX[c] (R81). -/
def Chain.busAuxWord (ch : Chain) : Word :=
  0#5 ++ BitVec.ofNat 2 ch.lpSlot.val ++ BitVec.ofBool ch.lpValid ++ ch.cs ++ ch.ledPair1 ++ ch.ledPair0

/-- SLOT[c][s] (R81). -/
def Slot.slotWord (sl : Slot) : Word :=
  0#13 ++ BitVec.ofBool sl.ledPhase ++ sl.mtype.code ++ sl.lastInput ++ sl.pending

/-- STATUS (R79). -/
def State.statusWord (s : State) : Word :=
  0#30 ++ BitVec.ofBool s.sessions[1].active ++ BitVec.ofBool s.sessions[0].active

/-- WPCNT's contents for a list of `n` waypoints (R74): `zext_32(n)`. WPQ_DEPTH has no upper bound (R4), and R7 gives
`zext_32` of 2^32 or more no value: there it is a free value (DESIGN CHOICE, safe: notes/assumptions/20.md). -/
def countWord (n : Nat) : Word := if n < 2 ^ 32 then BitVec.ofNat 32 n else Config.freeCount n

/-- A register of an existing chain; the offset is reserved and reads 0 where the chain does not exist (R82). -/
def State.chainReg (s : State) (c : Nat) (get : Chain → Word) : Word :=
  if h : c < 3 then if s.hasChain ⟨c, h⟩ then get s.chains[c] else 0 else 0

/-- A register of actuator `i`. -/
def State.actReg (s : State) (i : Nat) (get : Actuator → Word) : Word :=
  if h : i < 8 then get s.acts[i] else 0

/-- The contents of the register at an offset that is a multiple of 4 (R74, R75): 0 for CMD and reserved offsets. For WPCNT of
a list too long for 32 bits see `countWord`. -/
def State.register (s : State) (off : Nat) : Word :=
  if off = 0x04 then s.arg0
  else if off = 0x08 then s.arg1
  else if off = 0x0C then s.arg2
  else if off = 0x10 then s.result
  else if off = 0x14 then s.err
  else if off = 0x18 then s.statusWord
  else if off = 0x1C then s.now
  else if 0x20 ≤ off ∧ off < 0x40 then s.actReg ((off - 0x20) / 4) fun x => x.outReg
  else if 0x40 ≤ off ∧ off < 0x60 then s.actReg ((off - 0x40) / 4) fun x => x.actual
  else if 0x60 ≤ off ∧ off < 0x80 then s.actReg ((off - 0x60) / 4) fun x => countWord x.list.length
  else if 0x80 ≤ off ∧ off < 0x8C then s.chainReg ((off - 0x80) / 4) Chain.busStateWord
  else if 0x90 ≤ off ∧ off < 0x9C then s.chainReg ((off - 0x90) / 4) Chain.busAuxWord
  else if 0xA0 ≤ off ∧ off < 0xD0 then
    s.chainReg ((off - 0xA0) / 16) fun ch => (ch.slots[(off - 0xA0) % 16 / 4]'(by omega)).slotWord
  else 0

/-- A well-formed access: 4 bytes at a multiple of 4 (R71). -/
def accessOk (off : Byte) (size : Nat) : Bool := size == 4 && off.extractLsb' 0 2 == 0

/-- `RegRead(off, size)` (R72, R75): a read that is not well-formed returns 0. -/
def State.regRead (s : State) (off : Byte) (size : Nat) : Word :=
  if accessOk off size then s.register off.toNat else 0

/-- The byte that byte offset `k` of the window holds (R73): byte `k mod 4` of the register at the multiple of 4 below. No
access sees it alone (R72). -/
def State.windowByte (s : State) (k : Nat) : Byte := byteOfWord (s.register (k - k % 4)) (k % 4)

end Sys2Proof.Machine
end

