-- ==== Sys2Proof/Machine/Events.lean ====
section
/-! DEFINITION. What one step performs: a host access (20_memory.md R72, R75, R76), an event word (30_encoding.md R111), an
advance of time (60_exceptions.md R281), or, where no input is left, what the block does by itself (R298). -/

namespace Sys2Proof.Machine

open Sys2Proof

/-- A CMD write (R101): an OP that names no command raises ILLEGAL_CMD, a command is executed. -/
def commandWrite (s : State) (v : Word) : StepOutcome :=
  match decodeCommand v with
  | .ok i => exec i s
  | .error _ => .next (s.raiseErr .illegalCmd)

/-- `RegWrite(off, size, v)` (R72, R76). -/
def hostWrite (s : State) (off : Byte) (size : Nat) (v : Word) : StepOutcome :=
  whenStarted s <|
    if accessOk off size then
      if off = 0x00 then commandWrite s v
      else if off = 0x04 then .next { s with arg0 := v }
      else if off = 0x08 then .next { s with arg1 := v }
      else if off = 0x0C then .next { s with arg2 := v }
      else if off = 0x14 then .next { s with err := errAfterWrite s.err v }
      else .next (s.raiseErr .badAccess)
    else .next (s.raiseErr .badAccess)

/-- A host read (R72, R75): no register changes, and what it returned is recorded. -/
def hostRead (s : State) (off : Byte) (size : Nat) : StepOutcome :=
  whenStarted s <|
    .next { s with reads := s.reads ++ [{ t := s.t, off := off, size := size, value := s.regRead off size }] }

/-- An event word (R110); an invalid one is no event of the block and is refused (R111). Before the first RESET everything
but a RESET is refused, whatever the word (R301). -/
def eventStep (s : State) (w : Word) : StepOutcome :=
  match decodeEvent w with
  | .ok i => exec i s
  | .error _ => whenStarted s (.refused .invalidEventWord)

/-- The existing chains (R4). -/
def State.liveChains (s : State) : List (Fin 3) := [0, 1, 2].filter fun c => s.hasChain c

/-- Every deadline that has not fired: each chain's timer is always armed (R26), and the tick always runs (R51). -/
def State.deadlines (s : State) : List Nat :=
  s.nextTick :: s.liveChains.map fun c => s.chains[c].busDeadline

/-- Time advances to a later instant, past no deadline that has not fired (R281). -/
def advanceTo (s : State) (t' : Nat) : StepOutcome :=
  whenStarted s <|
    if t' ≤ s.t then .fault .timeNotLater
    else if s.deadlines.all fun d => decide (t' ≤ d) then .next { s with t := t' }
    else .fault .deadlinePassed

/-- The timed events that may occur now (R281). -/
def State.dueEvents (s : State) : List Instr :=
  ((s.liveChains.filter fun c => s.chains[c].busDeadline == s.t).map fun c => Instr.busTimer (BitVec.ofNat 2 c.val))
    ++ (if s.nextTick = s.t then [Instr.tick] else [])

/-- The earliest deadline. -/
def State.nextDeadline (s : State) : Nat := s.deadlines.foldl min s.nextTick

/-- What the block does with no input to come (R298): a timed event that is due occurs; of several, the free value picks
(R282); where none is due, time advances to the next deadline (R281). -/
def autonomousStep (s : State) : StepOutcome :=
  match s.dueEvents with
  | [] => advanceTo s s.nextDeadline
  | [e] => exec e s
  | e :: es =>
      exec ((e :: es).getD (Config.freeChoice s.choices % (e :: es).length) e) { s with choices := s.choices + 1 }

/-- Perform one input. -/
def perform (s : State) : Input → StepOutcome
  | .write off size v => hostWrite s off size v
  | .read off size => hostRead s off size
  | .event w => eventStep s w
  | .advance t' => advanceTo s t'

/-- Make the timer of the event that the word names due at the present instant. -/
def State.makeDue (s : State) (w : Word) : State :=
  match decodeEvent w with
  | .ok (.busTimer ch) =>
      match chainIndex s.cfg ch with
      | some c => s.updChain c fun x => { x with busDeadline := s.t }
      | none => s
  | .ok .tick => { s with nextTick := s.t }
  | _ => s

/-- Put a word before the inputs to come: a command word as a host write to CMD, an event word as that event, its timer due
(notes/assumptions/4.md). -/
def State.present (s : State) (w : Word) : State :=
  if isEventWord w then { s.makeDue w with inputs := .event w :: s.inputs }
  else { s with inputs := .write 0x00 4 w :: s.inputs }

/-- One step: the next input, or what the block does by itself. -/
def nextStep (s : State) : StepOutcome :=
  match s.inputs with
  | [] => autonomousStep s
  | x :: rest => perform { s with inputs := rest } x

end Sys2Proof.Machine
end

