-- ==== Sys2Proof/Machine/Step.lean ====
section
/-! DEFINITION. One step of the machine (60_exceptions.md R280, R281), and how the host places a word before it. -/

namespace Sys2Proof.Machine

open Sys2Proof

/-- One atomic event, or one advance of time (R280, R281). -/
def step (s : State) : Host.Outcome State Fault Refusal := nextStep s

/-- `s` with the word of a table row as the very next event (notes/assumptions/4.md). -/
def State.withFetchWord (s : State) (nbits w : Nat) : State := s.present (tableWord nbits w)

end Sys2Proof.Machine
end

