-- ==== Sys2Proof/Safety.lean ====
section
/-! DEFINITION. Runs, and the invariants that claims use: the registers of a chain (10_state.md R41), the lists (R54, R55),
the deadlines (60_exceptions.md R281), ERR (20_memory.md R78) and the trace (10_state.md R21). -/

namespace Sys2Proof.Machine

open Sys2Proof

/-- A mask with one bit set. -/
abbrev OneHot (m : Byte) : Prop := m ∈ ([0x01, 0x02, 0x04, 0x08, 0x10, 0x20, 0x40, 0x80] : List Byte)

/-- R41 for one chain. Its first item, no phase 7, no byte index above 5 and no type 3, holds by the types. -/
abbrev Chain.BusInv (ch : Chain) : Prop :=
  (ch.edgeArmed = true → ch.phase = .await ∧ ch.lineDir = .input ∧ ch.timeoutFlag = true) ∧
  (ch.phase = .data → OneHot ch.bitMask) ∧
  (ch.phase = .await → ch.lineDir = .input ∧ OneHot ch.bitMask) ∧
  (ch.phase = .data ∨ ch.phase = .stop1 ∨ ch.phase = .stop2 ∨ ch.phase = .turn ∨
      (ch.phase = .start ∧ 0 < ch.byteIndex.val) → ch.lineDir = .output) ∧
  (ch.phase = .complete → ch.lineDir = .input ∧ ch.edgeArmed = false)

/-- R41 for every chain. -/
abbrev State.BusInv (s : State) : Prop := ∀ c : Fin 3, s.chains[c].BusInv

/-- No start decreases along a list (R55). -/
abbrev SortedByStart (l : List Waypoint) : Prop := l.Pairwise fun v w => v.start.toNat ≤ w.start.toNat

/-- Every list is sorted (R55) and holds at most WPQ_DEPTH waypoints (R54). -/
abbrev State.ListInv (s : State) : Prop :=
  ∀ i : Fin 8, SortedByStart s.acts[i].list ∧ s.acts[i].list.length ≤ s.cfg.wpqDepth

/-- Time has passed no deadline that has not fired (R281). -/
abbrev State.TimeInv (s : State) : Prop := ∀ d ∈ s.deadlines, s.t ≤ d

/-- The reserved bits of ERR are 0 (R78). -/
abbrev State.ErrInv (s : State) : Prop := s.err &&& ~~~errMask = 0

/-- The records of the trace carry times that do not decrease and none in the future (R21, R6). -/
abbrev State.TraceInv (s : State) : Prop :=
  (s.trace.Pairwise fun a b => a.t ≤ b.t) ∧ ∀ r ∈ s.trace, r.t ≤ s.t

/-- All of them, on a run that has begun with parameters in their ranges. -/
abbrev State.Inv (s : State) : Prop :=
  s.started = true ∧ s.cfg.wf ∧ s.BusInv ∧ s.ListInv ∧ s.TimeInv ∧ s.ErrInv ∧ s.TraceInv

/-- One step leads from `s` to `s'`. -/
def StepsTo (s s' : State) : Prop := step s = .next s'

/-- The timer of the existing chain `c` is due, on a run that has begun (R130, R281). -/
abbrev State.BusDue (s : State) (c : Fin 3) : Prop :=
  s.started = true ∧ c.val < s.cfg.nChains.toNat ∧ s.t = s.chains[c].busDeadline

/-- The motion tick is due, on a run that has begun (R210, R281). -/
abbrev State.TickDue (s : State) : Prop := s.started = true ∧ s.t = s.nextTick

/-- BUS_TIMER(c). -/
abbrev busTimerOf (c : Fin 3) : Instr := .busTimer (BitVec.ofNat 2 c.val)

/-- LINE(c, v). -/
abbrev lineOf (c : Fin 3) (v : Bool) : Instr := .line v (BitVec.ofNat 2 c.val)

/-- The instructions of the motion scheduler (43_motion_scheduler.md, 44_motion_commands.md), and NOP. -/
def motionInstr : Instr → Bool
  | .nop _ | .wpEnq _ | .wpClear _ | .moveStart _ | .moveQuery _ | .tick => true
  | .modServoPos _ | .modServoColor _ | .modServoReadout _ | .modLed _ | .modQueryPos _ | .modBusInit _ => false
  | .busTimer _ | .line _ _ | .reset => false

/-- The instructions of the module bus (41_module_bus.md, 42_module_commands.md), and NOP. -/
def busInstr : Instr → Bool
  | .nop _ | .modServoPos _ | .modServoColor _ | .modServoReadout _ | .modLed _ | .modQueryPos _ | .modBusInit _ => true
  | .busTimer _ | .line _ _ => true
  | .wpEnq _ | .wpClear _ | .moveStart _ | .moveQuery _ | .tick | .reset => false

/-- `s` with other chains. -/
def State.withChains (s : State) (chains : Vector Chain 3) : State := { s with chains := chains }

/-- `s` with another motion state (10_state.md section 4), and another trace of what it has put out. -/
def State.withMotion (s : State) (acts : Vector Actuator 8) (sessions : Vector Session 2) (now : Word) (nextTick : Nat)
    (trace : List OutRecord) : State :=
  { s with acts := acts, sessions := sessions, now := now, nextTick := nextTick, trace := trace }

/-- The words whose OP is `op` are this command, its operands in the fields of format C (R100, R101). -/
def EncodedAs (op : Nat) (mk : CmdFields → Instr) : Prop :=
  ∀ w : Word, w.toNat % 256 = op →
    decodeCommand w =
      .ok (mk { a := w.extractLsb' 8 8, b := w.extractLsb' 16 8, ch := w.extractLsb' 24 2, rsv := w.extractLsb' 26 6 })

/-- The next state of one event, if it has one. -/
def State.after (s : State) (i : Instr) : Option State :=
  match exec i s with
  | .next s' => some s'
  | _ => none

/-- Chain `c`'s next callback: time moves to its deadline and its timer expires. What else happens before then is left
out. -/
def State.callback (s : State) (c : Fin 3) : Option State :=
  { s with t := s.chains[c].busDeadline }.after (busTimerOf c)

/-- Chain `c`'s next `n` callbacks. -/
def afterCallbacks (c : Fin 3) : Nat → State → Option State
  | 0, s => some s
  | n + 1, s => (s.callback c).bind (afterCallbacks c n)

/-- The levels that chain `c` drives after each of its next `n` callbacks. -/
def drivenLevels (c : Fin 3) : Nat → State → List Bool
  | 0, _ => []
  | n + 1, s =>
      match s.callback c with
      | some s' => s'.chains[c].lineOut :: drivenLevels c n s'
      | none => []

/-- The waveform of one frame byte (R132): a start bit, 8 data bits from bit 0, 2 stop bits. -/
def waveform (b : Byte) : List Bool :=
  [false, b.getLsbD 0, b.getLsbD 1, b.getLsbD 2, b.getLsbD 3, b.getLsbD 4, b.getLsbD 5, b.getLsbD 6, b.getLsbD 7,
    true, true]

/-- A module replies with one bit (95_test_vectors.md, the `@FRAME` expansion): a rising edge, then the level of the bit,
then the sample. -/
def receiveBit (c : Fin 3) (v : Bool) (s : State) : Option State :=
  (((s.after (lineOf c false)).bind fun s => s.after (lineOf c true)).bind fun s =>
    if v then some s else s.after (lineOf c false)).bind fun s => s.callback c

/-- A module replies with bits, in order. -/
def receiveBits (c : Fin 3) : List Bool → State → Option State
  | [], s => some s
  | v :: vs, s => (receiveBit c v s).bind (receiveBits c vs)

/-- The next `n` motion ticks: time moves to the next tick each time. What else happens in between is left out. -/
def afterTicks : Nat → State → Option State
  | 0, s => some s
  | n + 1, s => ({ s with t := s.nextTick }.after .tick).bind (afterTicks n)

/-- The trace records of actuator `i` that `s'` has and `s` has not. -/
def newRecords (s s' : State) (i : Fin 8) : List OutRecord :=
  (s'.trace.drop s.trace.length).filter fun r => r.act == i

end Sys2Proof.Machine
end

