-- ==== Sys2Proof/Certificates/Slice0/Obligations.lean ====
section
/-! DEFINITION. The statements for the provers. Each docstring names the rules of spec/ that it formalises. -/

open Sys2Proof Sys2Proof.Machine

/-! ## Words -/

/-- R100, R110: no field of an encoding is lost, in the word and in its bytes. -/
def Obligations.DecodeUndoesEncode : Prop :=
  ∀ (i : Instr) (rest : List Byte),
    decode (encode i) = .ok i ∧ decodeBytes (encodeBytes i ++ rest) = .ok (i, rest)

/-- R100, R110: a word that decodes is the word of what it decodes to. -/
def Obligations.DecodedWordIsTheEncoding : Prop :=
  ∀ (w : Word) (i : Instr), decode w = .ok i → encode i = w

/-- R101, R104, R105 (commands) and R110, R111 (events): which words are commands, and which are events. -/
def Obligations.WhichWordsDecode : Prop :=
  (∀ w : Word, (∃ i, decodeCommand w = .ok i) ↔
    w.toNat % 256 ∈ [0x00, 0x01, 0x02, 0x03, 0x04, 0x10, 0x11, 0x12, 0x13, 0x14, 0x15]) ∧
  (∀ w : Word, (∃ i, decodeEvent w = .ok i) ↔
    w.extractLsb' 26 6 = 0 ∧ w.extractLsb' 9 15 = 0 ∧
      ((w.toNat % 256 = 0x80 ∧ w.getLsbD 8 = false) ∨ w.toNat % 256 = 0x81 ∨
        ((w.toNat % 256 = 0x82 ∨ w.toNat % 256 = 0x83) ∧ w.getLsbD 8 = false ∧ w.extractLsb' 24 2 = 0)))

/-- 30_encoding.md section 5: the example words, and RESET. -/
def Obligations.ExampleWordsDecode : Prop :=
  decode 0x00000001 = .ok (.wpEnq ⟨0, 0, 0, 0⟩) ∧
  decode 0x00000501 = .ok (.wpEnq ⟨5, 0, 0, 0⟩) ∧
  decode 0x00000702 = .ok (.wpClear ⟨7, 0, 0, 0⟩) ∧
  decode 0x00000103 = .ok (.moveStart ⟨1, 0, 0, 0⟩) ∧
  decode 0x00000104 = .ok (.moveQuery ⟨1, 0, 0, 0⟩) ∧
  decode 0x00800010 = .ok (.modServoPos ⟨0, 0x80, 0, 0⟩) ∧
  decode 0x00F40111 = .ok (.modServoColor ⟨1, 0xF4, 0, 0⟩) ∧
  decode 0x00000312 = .ok (.modServoReadout ⟨3, 0, 0, 0⟩) ∧
  decode 0x00000013 = .ok (.modLed ⟨0, 0, 0, 0⟩) ∧
  decode 0x00000214 = .ok (.modQueryPos ⟨2, 0, 0, 0⟩) ∧
  decode 0x00000015 = .ok (.modBusInit ⟨0, 0, 0, 0⟩) ∧
  decode 0x00000181 = .ok (.line true 0) ∧
  decode 0x00000080 = .ok (.busTimer 0) ∧
  decode 0x00000082 = .ok .tick ∧
  decode 0x00000083 = .ok .reset

/-! ## Steps -/

/-- R100, R101, R110: the next input's word is decoded and executed, with that input gone from the inputs to come. -/
def Obligations.StepRunsTheDecodedWord : Prop :=
  (∀ (s : State) (w : Word) (i : Instr) (rest : List Input),
    s.started = true → s.inputs = .write 0x00 4 w :: rest → decodeCommand w = .ok i →
      step s = exec i { s with inputs := rest }) ∧
  (∀ (s : State) (w : Word) (i : Instr) (rest : List Input),
    s.inputs = .event w :: rest → decodeEvent w = .ok i → step s = exec i { s with inputs := rest })

/-- R105: an OP that names no command sets ILLEGAL_CMD and has no other effect. -/
def Obligations.IllegalOpSetsIllegalCmdOnly : Prop :=
  ∀ (s : State) (w : Word) (rest : List Input),
    s.started = true → s.inputs = .write 0x00 4 w :: rest →
    ((0x05 ≤ w.toNat % 256 ∧ w.toNat % 256 ≤ 0x0F) ∨ 0x16 ≤ w.toNat % 256) →
      step s = .next { s with inputs := rest, err := s.err ||| 0x00000001 }

/-- R102: a command that fails a check changes nothing but ERR[BAD_OPERAND]. Commands are the instructions whose words lie
outside the event space. -/
def Obligations.FailedCheckSetsBadOperandOnly : Prop :=
  (∀ (i : Instr) (s : State), (opField (encode i)).toNat < 0x80 → s.started = true → WellFormed s.cfg i = false →
    exec i s = .next { s with err := s.err ||| 0x00000002 }) ∧
  (∀ (f : CmdFields) (s : State), s.started = true → s.arg0 &&& ~~~0x00007777#32 ≠ 0 →
    exec (.modLed f) s = .next { s with err := s.err ||| 0x00000002 })

/-- R301 and R111: before the first RESET everything but a RESET is refused; an event of a chain that does not exist, and a
word that is no event, are refused. -/
def Obligations.WhatIsNoEventIsRefused : Prop :=
  (∀ (i : Instr) (s : State), s.started = false → i ≠ .reset → exec i s = .refused .beforeReset) ∧
  (∀ (s : State) (x : Input) (rest : List Input), s.started = false → s.inputs = x :: rest →
    (∀ w, x = .event w → decodeEvent w ≠ .ok .reset) → step s = .refused .beforeReset) ∧
  (∀ s : State, s.started = false → s.inputs = [] → step s = .refused .beforeReset) ∧
  (∀ (s : State) (ch : BitVec 2), s.started = true → s.cfg.nChains.toNat ≤ ch.toNat →
    exec (.busTimer ch) s = .refused .noSuchChain ∧ ∀ v, exec (.line v ch) s = .refused .noSuchChain) ∧
  (∀ (s : State) (w : Word) (rest : List Input), s.started = true → s.inputs = .event w :: rest →
    (∀ i, decodeEvent w ≠ .ok i) → step s = .refused .invalidEventWord)

/-- R281: a timed event at any other instant than its deadline is no step of the block. -/
def Obligations.TimedEventsOnlyAtTheirDeadlines : Prop :=
  (∀ (s : State) (c : Fin 3), s.started = true → c.val < s.cfg.nChains.toNat → s.t ≠ s.chains[c].busDeadline →
    exec (busTimerOf c) s = .fault .notDue) ∧
  (∀ s : State, s.started = true → s.t ≠ s.nextTick → exec .tick s = .fault .notDue)

/-- R281: time advances to a later instant exactly if it passes no deadline of an existing chain's timer or of the tick.
(R281 speaks of deadlines in `[t, t')`. That a deadline already before `t`, which no run reaches, blocks an advance too is
the model's own choice: notes/assumptions/6.md.) -/
def Obligations.TimeAdvancesPastNoDeadline : Prop :=
  ∀ (s : State) (t' : Nat) (rest : List Input), s.started = true → s.inputs = .advance t' :: rest →
    (t' ≤ s.t → step s = .fault .timeNotLater) ∧
    (s.t < t' → t' ≤ s.nextTick → (∀ c : Fin 3, c.val < s.cfg.nChains.toNat → t' ≤ s.chains[c].busDeadline) →
      step s = .next { s with inputs := rest, t := t' }) ∧
    (s.t < t' → (s.nextTick < t' ∨ ∃ c : Fin 3, c.val < s.cfg.nChains.toNat ∧ s.chains[c].busDeadline < t') →
      step s = .fault .deadlinePassed)

/-- R298, R281, R282, with no input to come, in a state whose time has passed no deadline: the block goes on. Some timed
event that is due occurs, whichever the free value picks, or, where none is due, time advances to the earliest deadline.
(That the block takes its own steps exactly where `inputs` is empty is the model's choice: notes/assumptions/5.md.) -/
def Obligations.BlockGoesOnByItself : Prop :=
  ∀ s : State, s.started = true → s.TimeInv → s.inputs = [] →
    (∃ (c : Fin 3) (n : Nat) (s' : State), s.BusDue c ∧ exec (busTimerOf c) { s with choices := n } = .next s' ∧
      step s = .next s') ∨
    (∃ (n : Nat) (s' : State), s.TickDue ∧ exec .tick { s with choices := n } = .next s' ∧ step s = .next s') ∨
    (∃ t' : Nat, s.t < t' ∧ step s = .next { s with t := t' } ∧ t' ∈ s.deadlines ∧ ∀ d ∈ s.deadlines, t' ≤ d)

/-! ## Commands -/

/-- R106: the words with OP 0x00, and no others, are NOP, and NOP changes nothing, whatever its other fields hold. -/
def Obligations.NopChangesNothing : Prop :=
  (∀ w : Word, (∃ f, decodeCommand w = .ok (.nop f)) ↔ w.toNat % 256 = 0x00) ∧
  ∀ (f : CmdFields) (s : State), s.started = true → exec (.nop f) s = .next s

/-- R240: the waypoint of ARG0 to ARG2 goes before the first one whose start is not smaller; a full list raises QUEUE_FULL
and stays. -/
def Obligations.WpEnqInsertsInOrder : Prop :=
  EncodedAs 0x01 .wpEnq ∧ ∀ (f : CmdFields) (s : State), s.started = true →
    (∀ i : Fin 8, f.a.toNat = i.val → f.b = 0 → f.ch = 0 → f.rsv = 0 →
      (s.acts[i].list.length ≠ s.cfg.wpqDepth →
        exec (.wpEnq f) s = .next
          { s with
            acts := s.acts.set i
              { s.acts[i] with
                list := s.acts[i].list.takeWhile (fun v => decide (v.start.toNat < s.arg0.toNat))
                  ++ ⟨s.arg0, s.arg1, s.arg2⟩
                  :: s.acts[i].list.dropWhile (fun v => decide (v.start.toNat < s.arg0.toNat)) } }) ∧
      (s.acts[i].list.length = s.cfg.wpqDepth → exec (.wpEnq f) s = .next { s with err := s.err ||| 0x00000004 })) ∧
    ((7 < f.a.toNat ∨ f.b ≠ 0 ∨ f.ch ≠ 0 ∨ f.rsv ≠ 0) → exec (.wpEnq f) s = .next { s with err := s.err ||| 0x00000002 })

/-- R241. -/
def Obligations.WpClearEmptiesOneList : Prop :=
  EncodedAs 0x02 .wpClear ∧ ∀ (f : CmdFields) (s : State), s.started = true →
    (∀ i : Fin 8, f.a.toNat = i.val → f.b = 0 → f.ch = 0 → f.rsv = 0 →
      exec (.wpClear f) s = .next { s with acts := s.acts.set i { s.acts[i] with list := [] } }) ∧
    ((7 < f.a.toNat ∨ f.b ≠ 0 ∨ f.ch ≠ 0 ∨ f.rsv ≠ 0) →
      exec (.wpClear f) s = .next { s with err := s.err ||| 0x00000002 })

/-- R242: each arm whose mask bit is 1 takes its snapshot, its reference time and its active flag; nothing else changes. -/
def Obligations.MoveStartStartsTheMaskedArms : Prop :=
  EncodedAs 0x03 .moveStart ∧ ∀ (f : CmdFields) (s : State), s.started = true →
    (f.a.toNat ≤ 3 → f.b = 0 → f.ch = 0 → f.rsv = 0 →
      exec (.moveStart f) s = .next
        { s with
          acts := Vector.ofFn fun i : Fin 8 =>
            if f.a.getLsbD (i.val / 4) then { s.acts[i] with actual := s.acts[i].outReg } else s.acts[i]
          sessions := Vector.ofFn fun a : Fin 2 =>
            if f.a.getLsbD a.val then { active := true, ref := s.now } else s.sessions[a] }) ∧
    ((3 < f.a.toNat ∨ f.b ≠ 0 ∨ f.ch ≠ 0 ∨ f.rsv ≠ 0) →
      exec (.moveStart f) s = .next { s with err := s.err ||| 0x00000002 })

/-- R243. -/
def Obligations.MoveQueryReadsTheActiveFlag : Prop :=
  EncodedAs 0x04 .moveQuery ∧ ∀ (f : CmdFields) (s : State), s.started = true →
    (∀ a : Fin 2, f.a.toNat = a.val → f.b = 0 → f.ch = 0 → f.rsv = 0 →
      exec (.moveQuery f) s = .next { s with result := if s.sessions[a].active then 1 else 0 }) ∧
    ((1 < f.a.toNat ∨ f.b ≠ 0 ∨ f.ch ≠ 0 ∨ f.rsv ≠ 0) →
      exec (.moveQuery f) s = .next { s with err := s.err ||| 0x00000002 })

/-- R180. -/
def Obligations.ServoPosClampsIntoPending : Prop :=
  EncodedAs 0x10 .modServoPos ∧ ∀ (f : CmdFields) (s : State), s.started = true →
    (∀ (c : Fin 3) (k : Fin 4), f.ch.toNat = c.val → c.val < s.cfg.nChains.toNat → f.a.toNat = k.val →
      f.b.toNat ≤ 0xEF → f.rsv = 0 →
      exec (.modServoPos f) s = .next
        { s with
          chains := s.chains.set c
            { s.chains[c] with
              slots := s.chains[c].slots.set k
                { s.chains[c].slots[k] with
                  pending := if f.b.toNat < 0x18 then 0x18 else if 0xE8 < f.b.toNat then 0xE8 else f.b } } }) ∧
    ((0xEF < f.b.toNat ∨ 3 < f.a.toNat ∨ s.cfg.nChains.toNat ≤ f.ch.toNat ∨ f.rsv ≠ 0) →
      exec (.modServoPos f) s = .next { s with err := s.err ||| 0x00000002 })

/-- R181: a slot that is not a servo is no error and stays. -/
def Obligations.ServoColorOnServosOnly : Prop :=
  EncodedAs 0x11 .modServoColor ∧ ∀ (f : CmdFields) (s : State), s.started = true →
    (∀ (c : Fin 3) (k : Fin 4), f.ch.toNat = c.val → c.val < s.cfg.nChains.toNat → f.a.toNat = k.val →
      0xF0 ≤ f.b.toNat → f.b.toNat ≤ 0xF7 → f.rsv = 0 →
      (s.chains[c].slots[k].mtype = .servo →
        exec (.modServoColor f) s = .next
          { s with
            chains := s.chains.set c
              { s.chains[c] with slots := s.chains[c].slots.set k { s.chains[c].slots[k] with pending := f.b } } }) ∧
      (s.chains[c].slots[k].mtype ≠ .servo → exec (.modServoColor f) s = .next s)) ∧
    ((f.b.toNat < 0xF0 ∨ 0xF7 < f.b.toNat ∨ 3 < f.a.toNat ∨ s.cfg.nChains.toNat ≤ f.ch.toNat ∨ f.rsv ≠ 0) →
      exec (.modServoColor f) s = .next { s with err := s.err ||| 0x00000002 })

/-- R182: the parameter SERVO_READOUT_CODE, whatever its value and the slot's type. -/
def Obligations.ServoReadoutSetsTheReadoutCode : Prop :=
  EncodedAs 0x12 .modServoReadout ∧ ∀ (f : CmdFields) (s : State), s.started = true →
    (∀ (c : Fin 3) (k : Fin 4), f.ch.toNat = c.val → c.val < s.cfg.nChains.toNat → f.a.toNat = k.val →
      f.b = 0 → f.rsv = 0 →
      exec (.modServoReadout f) s = .next
        { s with
          chains := s.chains.set c
            { s.chains[c] with
              slots := s.chains[c].slots.set k
                { s.chains[c].slots[k] with pending := s.cfg.servoReadoutCode } } }) ∧
    ((3 < f.a.toNat ∨ s.cfg.nChains.toNat ≤ f.ch.toNat ∨ f.b ≠ 0 ∨ f.rsv ≠ 0) →
      exec (.modServoReadout f) s = .next { s with err := s.err ||| 0x00000002 })

/-- R184: the two bytes as numbers, `8 · green + red` and `0x40 + 8 · fade + blue`; nothing but the pair changes. -/
def Obligations.LedCommandWritesThePair : Prop :=
  EncodedAs 0x13 .modLed ∧ ∀ (f : CmdFields) (s : State), s.started = true →
    (∀ c : Fin 3, f.ch.toNat = c.val → c.val < s.cfg.nChains.toNat → f.a = 0 → f.b = 0 → f.rsv = 0 →
      s.arg0 &&& ~~~0x00007777#32 = 0 →
      exec (.modLed f) s = .next
        { s with
          chains := s.chains.set c
            { s.chains[c] with
              ledPair0 := BitVec.ofNat 8 (8 * (s.arg0.toNat / 16 % 8) + s.arg0.toNat % 8)
              ledPair1 := BitVec.ofNat 8 (0x40 + 8 * (s.arg0.toNat / 4096 % 8) + s.arg0.toNat / 256 % 8) } }) ∧
    ((s.arg0 &&& ~~~0x00007777#32 ≠ 0 ∨ f.a ≠ 0 ∨ f.b ≠ 0 ∨ s.cfg.nChains.toNat ≤ f.ch.toNat ∨ f.rsv ≠ 0) →
      exec (.modLed f) s = .next { s with err := s.err ||| 0x00000002 })

/-- R185. -/
def Obligations.QueryPosReadsTheLastPolledServo : Prop :=
  EncodedAs 0x14 .modQueryPos ∧ ∀ (f : CmdFields) (s : State), s.started = true →
    (∀ (c : Fin 3) (k : Fin 4), f.ch.toNat = c.val → c.val < s.cfg.nChains.toNat → f.a.toNat = k.val →
      f.b = 0 → f.rsv = 0 →
      exec (.modQueryPos f) s = .next
        { s with
          result :=
            if s.chains[c].slots[k].mtype = .servo ∧ s.chains[c].lpValid = true ∧ s.chains[c].lpSlot = k then
              BitVec.ofNat 32 s.chains[c].slots[k].lastInput.toNat
            else 0 }) ∧
    ((3 < f.a.toNat ∨ s.cfg.nChains.toNat ≤ f.ch.toNat ∨ f.b ≠ 0 ∨ f.rsv ≠ 0) →
      exec (.modQueryPos f) s = .next { s with err := s.err ||| 0x00000002 })

/-- R187: every register of one chain but `line_in`; nothing else changes. -/
def Obligations.BusInitResetsOneChain : Prop :=
  EncodedAs 0x15 .modBusInit ∧ ∀ (f : CmdFields) (s : State), s.started = true →
    (∀ c : Fin 3, f.ch.toNat = c.val → c.val < s.cfg.nChains.toNat → f.a = 0 → f.b = 0 → f.rsv = 0 →
      exec (.modBusInit f) s = .next
        { s with
          chains := s.chains.set c
            { lineDir := .output, lineOut := true, lineIn := s.chains[c].lineIn, busDeadline := s.t + s.cfg.tBit
              edgeArmed := false, phase := .start, byteIndex := 0, bitMask := 0, shiftReg := 0, cs := 0
              timeoutFlag := false, slotIndex := 0, lpValid := false, lpSlot := 0
              slots := Vector.replicate 4 { mtype := .unknown, pending := 0xFE, lastInput := 0, ledPhase := false }
              ledPair0 := 0x00, ledPair1 := 0x40 } }) ∧
    ((s.cfg.nChains.toNat ≤ f.ch.toNat ∨ f.a ≠ 0 ∨ f.b ≠ 0 ∨ f.rsv ≠ 0) →
      exec (.modBusInit f) s = .next { s with err := s.err ||| 0x00000002 })

/-! ## The bus timer -/

/-- R131, with R136's closed form for the sixth byte. -/
def Obligations.StartLatchesTheFrameByte : Prop :=
  ∀ (s : State) (c : Fin 3), s.BusDue c → s.chains[c].phase = .start →
    ∃ (b cs' : Byte),
      exec (busTimerOf c) s = .next
        { s with
          chains := s.chains.set c
            { s.chains[c] with
              lineDir := .output, lineOut := false, shiftReg := b, cs := cs', bitMask := 0x01, phase := .data
              busDeadline := s.t + s.cfg.tBit } } ∧
      (s.chains[c].byteIndex.val = 0 → b = 0xFF ∧ cs' = 0x00) ∧
      (∀ k : Fin 4, s.chains[c].byteIndex.val = k.val + 1 →
        b = s.chains[c].slots[k].pending ∧ cs'.toNat = (s.chains[c].cs.toNat + b.toNat) % 256) ∧
      (s.chains[c].byteIndex.val = 5 →
        b.toNat = (s.chains[c].cs.toNat / 16 + s.chains[c].cs.toNat % 16) % 16 * 16 + s.chains[c].slotIndex.val ∧
        cs' = b)

/-- R134: the eighth bit, mask 0x80, leads to STOP1. -/
def Obligations.DataDrivesTheMaskedBit : Prop :=
  ∀ (s : State) (c : Fin 3), s.BusDue c → s.chains[c].phase = .data →
    ∀ n : Fin 8, s.chains[c].bitMask.toNat = 2 ^ n.val →
      exec (busTimerOf c) s = .next
        { s with
          chains := s.chains.set c
            { s.chains[c] with
              lineOut := s.chains[c].shiftReg.getLsbD n.val
              bitMask := BitVec.ofNat 8 (2 ^ (n.val + 1))
              phase := if n.val = 7 then .stop1 else .data
              busDeadline := s.t + s.cfg.tBit } }

/-- R137. -/
def Obligations.FirstStopBitDrivesHigh : Prop :=
  ∀ (s : State) (c : Fin 3), s.BusDue c → s.chains[c].phase = .stop1 →
    exec (busTimerOf c) s = .next
      { s with
        chains := s.chains.set c
          { s.chains[c] with lineOut := true, phase := .stop2, busDeadline := s.t + s.cfg.tBit } }

/-- R138. -/
def Obligations.SecondStopBitLeadsOn : Prop :=
  ∀ (s : State) (c : Fin 3), s.BusDue c → s.chains[c].phase = .stop2 →
    (∀ k : Fin 6, s.chains[c].byteIndex.val < 5 → k.val = s.chains[c].byteIndex.val + 1 →
      exec (busTimerOf c) s = .next
        { s with
          chains := s.chains.set c
            { s.chains[c] with
              lineOut := true, byteIndex := k, phase := .start, busDeadline := s.t + s.cfg.tBit } }) ∧
    (s.chains[c].byteIndex.val = 5 →
      exec (busTimerOf c) s = .next
        { s with
          chains := s.chains.set c
            { s.chains[c] with lineOut := true, phase := .turn, busDeadline := s.t + s.cfg.tBit } })

/-- R139. -/
def Obligations.TurnOpensTheFirstWindow : Prop :=
  ∀ (s : State) (c : Fin 3), s.BusDue c → s.chains[c].phase = .turn →
    exec (busTimerOf c) s = .next
      { s with
        chains := s.chains.set c
          { s.chains[c] with
            lineDir := .input, shiftReg := 0x00, bitMask := 0x01, timeoutFlag := true, edgeArmed := true
            phase := .await, busDeadline := s.t + 3000 } }

/-- R141: no slot changes, and the next slot's cycle begins. -/
def Obligations.TimeoutEndsTheCycle : Prop :=
  ∀ (s : State) (c : Fin 3), s.BusDue c → s.chains[c].phase = .await → s.chains[c].timeoutFlag = true →
    ∀ k : Fin 4, k.val = (s.chains[c].slotIndex.val + 1) % 4 →
      exec (busTimerOf c) s = .next
        { s with
          chains := s.chains.set c
            { s.chains[c] with
              edgeArmed := false, slotIndex := k, lpValid := false, byteIndex := 0, phase := .start
              busDeadline := s.t + s.cfg.tBit } }

/-- R142: the line's level becomes the masked bit; the next window opens, or the response is complete. -/
def Obligations.SampleReadsOneResponseBit : Prop :=
  ∀ (s : State) (c : Fin 3), s.BusDue c → s.chains[c].phase = .await → s.chains[c].timeoutFlag = false →
    ∃ r : Byte,
      (s.chains[c].lineIn = true → r = s.chains[c].shiftReg ||| s.chains[c].bitMask) ∧
      (s.chains[c].lineIn = false → r = s.chains[c].shiftReg) ∧
      (s.chains[c].bitMask ≠ 0x80 →
        exec (busTimerOf c) s = .next
          { s with
            chains := s.chains.set c
              { s.chains[c] with
                shiftReg := r, bitMask := s.chains[c].bitMask <<< 1, timeoutFlag := true, edgeArmed := true
                busDeadline := s.t + 1500 } }) ∧
      (s.chains[c].bitMask = 0x80 →
        exec (busTimerOf c) s = .next
          { s with
            chains := s.chains.set c
              { s.chains[c] with shiftReg := r, bitMask := 0x00, phase := .complete, busDeadline := s.t + s.cfg.tBit } })

/-- R145 with R146 and R147: what a Complete leaves in every slot, and in the chain. -/
def Obligations.CompleteInterpretsTheResponse : Prop :=
  ∀ (s : State) (c : Fin 3) (k next : Fin 4) (r : Byte), s.BusDue c → s.chains[c].phase = .complete →
    s.chains[c].slotIndex = k → s.chains[c].shiftReg = r → next.val = (k.val + 1) % 4 →
    ∃ slots' : Vector Slot 4,
      exec (busTimerOf c) s = .next
        { s with
          chains := s.chains.set c
            { s.chains[c] with
              slots := slots', lpValid := true, lpSlot := k, slotIndex := next, byteIndex := 0, phase := .start
              busDeadline := s.t + s.cfg.tBit } } ∧
      (∀ j : Fin 4, j < k → slots'[j] = s.chains[c].slots[j]) ∧
      (∀ j : Fin 4, k < j → slots'[j] =
        if r = 0x00 then { s.chains[c].slots[j] with mtype := .unknown, pending := 0xFE, ledPhase := false }
        else s.chains[c].slots[j]) ∧
      slots'[k] =
        { (if r = 0x00 then { s.chains[c].slots[k] with mtype := .unknown, pending := 0xFE, ledPhase := false }
          else match s.chains[c].slots[k].mtype with
            | .led =>
                { s.chains[c].slots[k] with
                  ledPhase := !s.chains[c].slots[k].ledPhase
                  pending := if s.chains[c].slots[k].ledPhase then s.chains[c].ledPair0 else s.chains[c].ledPair1 }
            | .servo => if r = 0xFE then { s.chains[c].slots[k] with pending := 0xFC } else s.chains[c].slots[k]
            | .unknown =>
                if r = 0xFE then { s.chains[c].slots[k] with pending := 0xFC }
                else if r = 0x01 then { s.chains[c].slots[k] with mtype := .servo, pending := 0xF4 }
                else if r = 0x02 then
                  { s.chains[c].slots[k] with mtype := .led, ledPhase := false, pending := s.chains[c].ledPair0 }
                else s.chains[c].slots[k] : Slot) with lastInput := r }

/-- R136: the closed form, for every sum and slot. -/
def Obligations.ChecksumClosedForm : Prop :=
  ∀ (sum : Byte) (slot : Fin 4),
    (checksumByte sum slot).toNat = (sum.toNat / 16 + sum.toNat % 16) % 16 * 16 + slot.val

/-- R150, R151: the word; a rising edge while the detector is armed clears the flag, disarms and reloads; any other change of level
changes only `line_in`. At any instant. -/
def Obligations.LineChangeAndEdgeAction : Prop :=
  (∀ (c : Fin 3) (v : Bool),
    decodeEvent (BitVec.ofNat 32 (0x81 + 0x100 * (if v then 1 else 0) + 0x1000000 * c.val)) = .ok (lineOf c v)) ∧
  ∀ (s : State) (c : Fin 3) (v : Bool), s.started = true → c.val < s.cfg.nChains.toNat →
    (s.chains[c].lineIn = false → v = true → s.chains[c].edgeArmed = true →
      exec (lineOf c v) s = .next
        { s with
          chains := s.chains.set c
            { s.chains[c] with
              lineIn := true, timeoutFlag := false, edgeArmed := false, busDeadline := s.t + s.cfg.tSample } }) ∧
    (¬(s.chains[c].lineIn = false ∧ v = true ∧ s.chains[c].edgeArmed = true) →
      exec (lineOf c v) s = .next { s with chains := s.chains.set c { s.chains[c] with lineIn := v } })

/-- R154: what a chain's event makes of the chain depends only on that chain, the time and the parameters, and it changes
nothing outside the chain. -/
def Obligations.ChainsAreIndependent : Prop :=
  ∀ (i : Instr) (c : Fin 3) (s₁ s₂ s₁' : State), (i = busTimerOf c ∨ ∃ v, i = lineOf c v) →
    s₁.cfg = s₂.cfg → s₁.t = s₂.t → s₁.started = s₂.started → s₁.chains[c] = s₂.chains[c] →
    exec i s₁ = .next s₁' →
      (∀ c' : Fin 3, c' ≠ c → s₁'.chains[c'] = s₁.chains[c']) ∧
      ({ s₁' with chains := s₁.chains } : State) = s₁ ∧
      ∃ s₂', exec i s₂ = .next s₂' ∧ s₂'.chains[c] = s₁'.chains[c]

/-- R132: from the START of a byte, eleven callbacks one T_BIT apart drive the waveform of the byte that START latches. -/
def Obligations.OneByteOnTheWire : Prop :=
  ∀ (s : State) (c : Fin 3) (b : Byte), s.started = true → c.val < s.cfg.nChains.toNat →
    s.chains[c].phase = .start → s.chains[c].frameByte = b →
    drivenLevels c 11 s = waveform b ∧
    ∀ n : Nat, n ≤ 11 → ∃ s', afterCallbacks c n s = some s' ∧
      s'.chains[c].busDeadline = s.chains[c].busDeadline + n * s.cfg.tBit

/-- R133 with R132, R136 and R138: from the START of byte 0, sixty-six callbacks drive the six bytes of a frame in their
order, the last the checksum of the four data bytes with the slot, and lead to TURN, 66 T_BIT later. -/
def Obligations.OneFrameOnTheWire : Prop :=
  ∀ (s : State) (c : Fin 3) (sum : Nat), s.started = true → c.val < s.cfg.nChains.toNat →
    s.chains[c].phase = .start → s.chains[c].byteIndex = 0 →
    sum = (s.chains[c].slots[0].pending.toNat + s.chains[c].slots[1].pending.toNat
      + s.chains[c].slots[2].pending.toNat + s.chains[c].slots[3].pending.toNat) % 256 →
    drivenLevels c 66 s =
      waveform 0xFF ++ waveform s.chains[c].slots[0].pending ++ waveform s.chains[c].slots[1].pending
        ++ waveform s.chains[c].slots[2].pending ++ waveform s.chains[c].slots[3].pending
        ++ waveform (BitVec.ofNat 8 ((sum / 16 + sum % 16) % 16 * 16 + s.chains[c].slotIndex.val)) ∧
    ∃ s', afterCallbacks c 66 s = some s' ∧ s'.chains[c].phase = .turn ∧ s'.chains[c].byteIndex.val = 5 ∧
      s'.chains[c].lineDir = .output ∧ s'.chains[c].slots = s.chains[c].slots ∧
      s'.chains[c].slotIndex = s.chains[c].slotIndex ∧
      s'.chains[c].busDeadline = s.chains[c].busDeadline + 66 * s.cfg.tBit

/-- R140, R142, R143, R151: a reply of eight bits, each with its edge at the instant its window opens, is received least
significant bit first, and leads to COMPLETE. -/
def Obligations.OneReplyIsReceived : Prop :=
  ∀ (s : State) (c : Fin 3) (r : Byte), s.started = true → c.val < s.cfg.nChains.toNat →
    s.chains[c].phase = .await → s.chains[c].edgeArmed = true → s.chains[c].bitMask = 0x01 →
    s.chains[c].shiftReg = 0x00 →
    ∃ s', receiveBits c [r.getLsbD 0, r.getLsbD 1, r.getLsbD 2, r.getLsbD 3, r.getLsbD 4, r.getLsbD 5, r.getLsbD 6,
        r.getLsbD 7] s = some s' ∧
      s'.chains[c].phase = .complete ∧ s'.chains[c].shiftReg = r ∧ s'.chains[c].edgeArmed = false ∧
      s'.chains[c].slots = s.chains[c].slots ∧ s'.chains[c].slotIndex = s.chains[c].slotIndex ∧
      s'.t = s.t + 8 * s.cfg.tSample ∧ s'.chains[c].busDeadline = s'.t + s.cfg.tBit

/-- R149: a Led slot that starts in phase 0 and never gets the reply 0x00 shows the two bytes of the pair in turn. -/
def Obligations.LedSlotAlternates : Prop :=
  ∀ (ch : Chain) (k : Fin 4) (rs : List Byte), (∀ r ∈ rs, r ≠ 0x00) →
    ch.slots[k].mtype = .led → ch.slots[k].ledPhase = false → ch.slots[k].pending = ch.ledPair0 →
    (rs.foldl (fun x r => x.interpret k r) ch).slots[k].mtype = .led ∧
    (rs.foldl (fun x r => x.interpret k r) ch).slots[k].pending =
      if rs.length % 2 = 0 then ch.ledPair0 else ch.ledPair1

/-! ## The motion tick -/

/-- R210, R219: the tick counts time, writes at most one record per actuator, and changes nothing outside the motion state
and WINDOW_ERR. -/
def Obligations.TickCountsTimeAndTouchesMotionOnly : Prop :=
  ∀ s : State, s.TickDue →
    ∃ s', exec .tick s = .next s' ∧
      s'.now = s.now + 1 ∧ s'.nextTick = s.nextTick + 1000 ∧
      (∀ a : Fin 2, s'.sessions[a].ref = s.sessions[a].ref) ∧
      (∃ recs : List OutRecord, s'.trace = s.trace ++ recs ∧ (∀ r ∈ recs, r.t = s.t) ∧
        (recs.map OutRecord.act).Nodup) ∧
      (∀ k : Nat, k < 8 ∨ 16 ≤ k → s'.err.getLsbD k = s.err.getLsbD k) ∧
      ({ s' with
          now := s.now, nextTick := s.nextTick, sessions := s.sessions, acts := s.acts, trace := s.trace
          err := s.err } : State) = s

/-- R218: an inactive arm's actuators are not evaluated at all. -/
def Obligations.InactiveArmIsNotEvaluated : Prop :=
  ∀ (s : State) (a : Fin 2) (i : Fin 8), s.TickDue → i.val / 4 = a.val → s.sessions[a].active = false →
    ∃ s', exec .tick s = .next s' ∧ s'.acts[i] = s.acts[i] ∧ newRecords s s' i = [] ∧
      s'.sessions[a] = s.sessions[a] ∧ s'.err.getLsbD (8 + i.val) = s.err.getLsbD (8 + i.val)

/-- R211, R212: an active arm's actuator before its head is due, and inside the head's window. `e` counts the ticks since
the session started, this one included. -/
def Obligations.TickInterpolatesTheHead : Prop :=
  ∀ (s : State) (a : Fin 2) (i : Fin 8) (w : Waypoint) (ws : List Waypoint) (e : Nat), s.TickDue → i.val / 4 = a.val →
    s.sessions[a].active = true → s.acts[i].list = w :: ws → e = (s.now + 1 - s.sessions[a].ref).toNat →
    ∃ s', exec .tick s = .next s' ∧
      (e < w.start.toNat →
        s'.acts[i] = s.acts[i] ∧ newRecords s s' i = [] ∧ s'.err.getLsbD (8 + i.val) = s.err.getLsbD (8 + i.val)) ∧
      (w.start.toNat ≤ e → e < w.stop.toNat →
        ∃ v : Word,
          (s.acts[i].actual.toNat ≤ w.target.toNat →
            v.toNat = s.acts[i].actual.toNat + (w.target.toNat - s.acts[i].actual.toNat) * (e - w.start.toNat)
              / (w.stop.toNat - w.start.toNat)) ∧
          (w.target.toNat < s.acts[i].actual.toNat →
            v.toNat = s.acts[i].actual.toNat - (s.acts[i].actual.toNat - w.target.toNat) * (e - w.start.toNat)
              / (w.stop.toNat - w.start.toNat)) ∧
          s'.acts[i] = { s.acts[i] with outReg := v } ∧ newRecords s s' i = [⟨s.t, i, v⟩] ∧
          s'.err.getLsbD (8 + i.val) = s.err.getLsbD (8 + i.val))

/-- R214, R215, R216: a head whose window is over is snapped and retired in one step, however late; the flag is set exactly
for a window of no positive length evaluated away from its stop. -/
def Obligations.TickRetiresTheHead : Prop :=
  ∀ (s : State) (a : Fin 2) (i : Fin 8) (w : Waypoint) (ws : List Waypoint) (e : Nat), s.TickDue → i.val / 4 = a.val →
    s.sessions[a].active = true → s.acts[i].list = w :: ws → e = (s.now + 1 - s.sessions[a].ref).toNat →
    w.start.toNat ≤ e → w.stop.toNat ≤ e →
    ∃ s', exec .tick s = .next s' ∧
      s'.acts[i] = { list := ws, actual := w.target, outReg := w.target } ∧
      newRecords s s' i = [⟨s.t, i, w.target⟩] ∧
      s'.err.getLsbD (8 + i.val) =
        (s.err.getLsbD (8 + i.val) || decide (w.stop.toNat ≤ w.start.toNat ∧ w.stop.toNat ≠ e))

/-- R217: the session ends at a tick that finds all four lists of the arm empty, and at no other; a tick starts none. An
actuator whose list is empty keeps its registers and its flag, and gets no record (R210). -/
def Obligations.SessionEndsOnEmptyLists : Prop :=
  ∀ (s : State) (a : Fin 2), s.TickDue →
    ∃ s', exec .tick s = .next s' ∧
      (s'.sessions[a].active = true ↔
        s.sessions[a].active = true ∧ ∃ i : Fin 8, i.val / 4 = a.val ∧ s.acts[i].list ≠ []) ∧
      ∀ i : Fin 8, i.val / 4 = a.val → s.acts[i].list = [] →
        s'.acts[i] = s.acts[i] ∧ newRecords s s' i = [] ∧ s'.err.getLsbD (8 + i.val) = s.err.getLsbD (8 + i.val)

/-- R212, R213: the ramp lies between its ends, starts at the cached position and moves toward the target. -/
def Obligations.RampIsMonotoneAndBounded : Prop :=
  ∀ (x g : Word) (d rem rem' : Int), 1 ≤ rem' → rem' ≤ rem → rem ≤ d →
    (x.toNat ≤ g.toNat →
      x.toNat ≤ (ramp x g d rem).toNat ∧ (ramp x g d rem).toNat ≤ (ramp x g d rem').toNat ∧
        (ramp x g d rem').toNat ≤ g.toNat) ∧
    (g.toNat ≤ x.toNat →
      g.toNat ≤ (ramp x g d rem').toNat ∧ (ramp x g d rem').toNat ≤ (ramp x g d rem).toNat ∧
        (ramp x g d rem).toNat ≤ x.toNat) ∧
    ramp x g d d = x

/-- R331 with R210 to R214: one waypoint of a session that has just started is driven along its ramp, tick by tick, and is
exactly at its target and retired at tick `stop`. -/
def Obligations.WaypointReachesItsTarget : Prop :=
  ∀ (s : State) (a : Fin 2) (i : Fin 8) (w : Waypoint), s.started = true → i.val / 4 = a.val →
    s.sessions[a].active = true → s.sessions[a].ref = s.now → s.acts[i].list = [w] → w.start.toNat < w.stop.toNat →
    (∀ n : Nat, 1 ≤ n → w.start.toNat ≤ n → n < w.stop.toNat →
      ∃ s', afterTicks n s = some s' ∧ s'.acts[i].list = [w] ∧ s'.acts[i].actual = s.acts[i].actual ∧
        s'.sessions[a].active = true ∧
        s'.acts[i].outReg = ramp s.acts[i].actual w.target (w.stop.toNat - w.start.toNat) (w.stop.toNat - n)) ∧
    ∃ s', afterTicks w.stop.toNat s = some s' ∧ s'.acts[i].list = [] ∧ s'.acts[i].actual = w.target ∧
      s'.acts[i].outReg = w.target ∧ s'.sessions[a].active = true ∧ s'.now = s.now + w.stop

/-! ## Reset -/

/-- R300: the word, and every register of the block, at any instant, before the first RESET too; the time, the parameters and
the trace stay. (What the model's copies of chains that do not exist hold, that `inputs`, `reads` and `choices` stay, and the
flag `started`, are the model's own: notes/assumptions/3.md, 8.md, 11.md, 17.md.) -/
def Obligations.ResetSetsEveryRegister : Prop :=
  decodeEvent 0x00000083 = .ok .reset ∧ ∀ s : State,
    exec .reset s = .next
      { cfg := s.cfg, started := true, t := s.t
        chains := Vector.replicate 3
          { lineDir := .output, lineOut := true, lineIn := true, busDeadline := s.t + s.cfg.tBit
            edgeArmed := false, phase := .start, byteIndex := 0, bitMask := 0, shiftReg := 0, cs := 0
            timeoutFlag := false, slotIndex := 0, lpValid := false, lpSlot := 0
            slots := Vector.replicate 4 { mtype := .unknown, pending := 0xFE, lastInput := 0, ledPhase := false }
            ledPair0 := 0x00, ledPair1 := 0x40 }
        now := 0, nextTick := s.t + 1000
        sessions := Vector.replicate 2 { active := false, ref := 0 }
        acts := Vector.replicate 8 { list := [], actual := 0, outReg := 0 }
        arg0 := 0, arg1 := 0, arg2 := 0, result := 0, err := 0
        trace := s.trace, reads := s.reads, inputs := s.inputs, choices := s.choices }

/-! ## The register window -/

/-- R74, R75, R79, R80, R82: what a well-formed read of each offset returns, the readback words of the chains apart. (For
WPCNT of 2^32 or more waypoints the spec gives no value, and the statement holds of whatever the free value is: the model's
choice, notes/assumptions/20.md.) -/
def Obligations.ReadsFollowTheRegisterMap : Prop :=
  ∀ s : State,
    s.regRead 0x00 4 = 0 ∧ s.regRead 0x04 4 = s.arg0 ∧ s.regRead 0x08 4 = s.arg1 ∧ s.regRead 0x0C 4 = s.arg2 ∧
    s.regRead 0x10 4 = s.result ∧ s.regRead 0x14 4 = s.err ∧ s.regRead 0x1C 4 = s.now ∧
    (s.regRead 0x18 4).toNat =
      (if s.sessions[0].active then 1 else 0) + 2 * (if s.sessions[1].active then 1 else 0) ∧
    (∀ i : Fin 8, s.regRead (BitVec.ofNat 8 (0x20 + 4 * i.val)) 4 = s.acts[i].outReg ∧
      s.regRead (BitVec.ofNat 8 (0x40 + 4 * i.val)) 4 = s.acts[i].actual ∧
      s.regRead (BitVec.ofNat 8 (0x60 + 4 * i.val)) 4 =
        if s.acts[i].list.length < 0x100000000 then BitVec.ofNat 32 s.acts[i].list.length
        else Config.freeCount s.acts[i].list.length) ∧
    s.regRead 0x8C 4 = 0 ∧ s.regRead 0x9C 4 = 0 ∧
    (∀ k : Fin 12, s.regRead (BitVec.ofNat 8 (0xD0 + 4 * k.val)) 4 = 0) ∧
    (∀ (c : Fin 3) (k : Fin 4), s.cfg.nChains.toNat ≤ c.val →
      s.regRead (BitVec.ofNat 8 (0x80 + 4 * c.val)) 4 = 0 ∧ s.regRead (BitVec.ofNat 8 (0x90 + 4 * c.val)) 4 = 0 ∧
      s.regRead (BitVec.ofNat 8 (0xA0 + 16 * c.val + 4 * k.val)) 4 = 0)

/-- R81, with the encodings of R23, R28 and R36: BUS_STATE, BUS_AUX and SLOT of an existing chain, field by field. -/
def Obligations.ReadbackWordsHoldTheirFields : Prop :=
  ∀ (s : State) (c : Fin 3) (k : Fin 4) (ch : Chain) (bs aux sl : Word), c.val < s.cfg.nChains.toNat →
    ch = s.chains[c] → bs = s.regRead (BitVec.ofNat 8 (0x80 + 4 * c.val)) 4 →
    aux = s.regRead (BitVec.ofNat 8 (0x90 + 4 * c.val)) 4 →
    sl = s.regRead (BitVec.ofNat 8 (0xA0 + 16 * c.val + 4 * k.val)) 4 →
    bs.extractLsb' 0 3 = (match ch.phase with
      | .start => 0#3 | .data => 1#3 | .stop1 => 2#3 | .stop2 => 3#3 | .turn => 4#3 | .await => 5#3 | .complete => 6#3) ∧
    (bs.extractLsb' 3 3).toNat = ch.byteIndex.val ∧ bs.getLsbD 6 = ch.timeoutFlag ∧ bs.getLsbD 7 = ch.edgeArmed ∧
    bs.extractLsb' 8 8 = ch.bitMask ∧ bs.extractLsb' 16 8 = ch.shiftReg ∧
    (bs.extractLsb' 24 2).toNat = ch.slotIndex.val ∧ bs.getLsbD 26 = decide (ch.lineDir = .output) ∧
    bs.getLsbD 27 = ch.lineOut ∧ bs.getLsbD 28 = ch.lineIn ∧ bs.extractLsb' 29 3 = 0 ∧
    aux.extractLsb' 0 8 = ch.ledPair0 ∧ aux.extractLsb' 8 8 = ch.ledPair1 ∧ aux.extractLsb' 16 8 = ch.cs ∧
    aux.getLsbD 24 = ch.lpValid ∧ (aux.extractLsb' 25 2).toNat = ch.lpSlot.val ∧ aux.extractLsb' 27 5 = 0 ∧
    sl.extractLsb' 0 8 = ch.slots[k].pending ∧ sl.extractLsb' 8 8 = ch.slots[k].lastInput ∧
    sl.extractLsb' 16 2 = (match ch.slots[k].mtype with | .unknown => 0#2 | .servo => 1#2 | .led => 2#2) ∧
    sl.getLsbD 18 = ch.slots[k].ledPhase ∧ sl.extractLsb' 19 13 = 0

/-- R72, R75: a read changes no register; one that is not well-formed returns 0. (That what it returned is kept in `reads`
is the model's own record: notes/assumptions/14.md.) -/
def Obligations.ReadsHaveNoSideEffect : Prop :=
  ∀ (s : State) (off : Byte) (size : Nat) (rest : List Input), s.started = true → s.inputs = .read off size :: rest →
    step s = .next { s with inputs := rest, reads := s.reads ++ [⟨s.t, off, size, s.regRead off size⟩] } ∧
    (size ≠ 4 ∨ off.toNat % 4 ≠ 0 → s.regRead off size = 0)

/-- R72, R76, R78: a write to CMD, to ARG0 to ARG2, to ERR, to a register that takes none, and one that is not
well-formed. -/
def Obligations.WritesFollowTheRegisterMap : Prop :=
  ∀ (s : State) (off : Byte) (size : Nat) (v : Word) (rest : List Input), s.started = true →
    s.inputs = .write off size v :: rest →
    (size ≠ 4 ∨ off.toNat % 4 ≠ 0 → step s = .next { s with inputs := rest, err := s.err ||| 0x00000008 }) ∧
    (size = 4 → off = 0x00 → ∀ i, decodeCommand v = .ok i → step s = exec i { s with inputs := rest }) ∧
    (size = 4 → off = 0x04 → step s = .next { s with inputs := rest, arg0 := v }) ∧
    (size = 4 → off = 0x08 → step s = .next { s with inputs := rest, arg1 := v }) ∧
    (size = 4 → off = 0x0C → step s = .next { s with inputs := rest, arg2 := v }) ∧
    (size = 4 → off = 0x14 → step s = .next { s with inputs := rest, err := s.err &&& ~~~(v &&& 0x0000FF0F) }) ∧
    (size = 4 → off.toNat % 4 = 0 → off.toNat ∉ [0x00, 0x04, 0x08, 0x0C, 0x14] →
      step s = .next { s with inputs := rest, err := s.err ||| 0x00000008 })

/-- R73: the four bytes of a register, the least significant at the lowest offset. -/
def Obligations.WindowIsLittleEndian : Prop :=
  ∀ (s : State) (n k : Nat), n < 64 → k < 4 →
    (s.windowByte (4 * n + k)).toNat = (s.regRead (BitVec.ofNat 8 (4 * n)) 4).toNat / 256 ^ k % 256

/-! ## Invariants of every step -/

/-- R41. -/
def Obligations.StepKeepsTheBusInvariants : Prop :=
  ∀ s s' : State, s.BusInv → step s = .next s' → s'.BusInv

/-- R54, R55. -/
def Obligations.StepKeepsListsSortedAndBounded : Prop :=
  ∀ s s' : State, s.ListInv → step s = .next s' → s'.ListInv

/-- R281: time never passes a deadline that has not fired. -/
def Obligations.StepPassesNoDeadline : Prop :=
  ∀ s s' : State, s.TimeInv → step s = .next s' → s'.TimeInv

/-- R78 (reserved bits) and R21, R6 (the trace). -/
def Obligations.StepKeepsErrAndTraceInvariants : Prop :=
  ∀ s s' : State, step s = .next s' → (s.ErrInv → s'.ErrInv) ∧ (s.TraceInv → s'.TraceInv)

/-- The invariants hold right after a RESET, whatever the state before it, if the parameters are in their ranges and the trace
that the RESET keeps was in order; and so in the states that begin a run, State.reset among them (its parameters are the
model's choice, notes/assumptions/2.md). -/
def Obligations.ResetMeetsTheInvariants : Prop :=
  (∀ s : State, s.cfg.wf → s.TraceInv → ∃ s', exec .reset s = .next s' ∧ s'.Inv) ∧
  (∀ (cfg : Config) (t : Nat), cfg.wf → (State.resetAt cfg t).Inv) ∧ State.reset.Inv

/-- R20 (parameters), R6 (a later RESET does not set time back), R21 and R300 (nothing takes a record off the trace), R301. -/
def Obligations.StepKeepsParametersAndHistory : Prop :=
  ∀ s s' : State, step s = .next s' →
    s'.cfg = s.cfg ∧ s.t ≤ s'.t ∧ s.trace <+: s'.trace ∧ s.reads <+: s'.reads ∧
      (s.started = true → s'.started = true)

/-- R78: a bit of ERR is cleared only by a host write of 1 to it, or by a RESET. -/
def Obligations.ErrBitsAreSticky : Prop :=
  ∀ (s s' : State) (k : Nat), step s = .next s' → s.err.getLsbD k = true →
    s'.err.getLsbD k = true ∨
    (∃ (v : Word) (rest : List Input), s.inputs = .write 0x14 4 v :: rest ∧ v.getLsbD k = true ∧
      k ∈ [0, 1, 2, 3, 8, 9, 10, 11, 12, 13, 14, 15]) ∨
    (∃ (w : Word) (rest : List Input), s.inputs = .event w :: rest ∧ decodeEvent w = .ok .reset)

/-- R25, R61, R57, R58, R292: who may change the line level, RESULT, the cached positions and the outputs. -/
def Obligations.WhoMayChangeWhat : Prop :=
  ∀ (i : Instr) (s s' : State), exec i s = .next s' → i ≠ .reset →
    (s'.result ≠ s.result → (∃ f, i = .moveQuery f) ∨ ∃ f, i = .modQueryPos f) ∧
    (∀ c : Fin 3, s'.chains[c].lineIn ≠ s.chains[c].lineIn → ∃ v, i = .line v (BitVec.ofNat 2 c.val)) ∧
    (∀ j : Fin 8, s'.acts[j].actual ≠ s.acts[j].actual → i = .tick ∨ ∃ f, i = .moveStart f) ∧
    (∀ j : Fin 8, s'.acts[j].outReg ≠ s.acts[j].outReg → i = .tick) ∧
    (s'.trace ≠ s.trace → i = .tick)

/-- R295: chains and the motion scheduler share no state. Every instruction but RESET writes chains only, or motion state
only. What the motion scheduler's instructions make of everything but the chains does not depend on the chains, which they
leave as they are; what the bus's make of everything but the motion state does not depend on the motion state, nor on the
trace, which they leave as they are. -/
def Obligations.BusAndMotionShareNothing : Prop :=
  (∀ (i : Instr) (s s' : State), exec i s = .next s' → i ≠ .reset →
    s'.chains = s.chains ∨
    (s'.acts = s.acts ∧ s'.sessions = s.sessions ∧ s'.now = s.now ∧ s'.nextTick = s.nextTick ∧ s'.trace = s.trace)) ∧
  (∀ (i : Instr) (s s' : State) (chains : Vector Chain 3), motionInstr i = true → exec i s = .next s' →
    s'.chains = s.chains ∧ exec i (s.withChains chains) = .next (s'.withChains chains)) ∧
  (∀ (i : Instr) (s s' : State) (acts : Vector Actuator 8) (sessions : Vector Session 2) (now : Word) (nextTick : Nat)
      (trace : List OutRecord), busInstr i = true → exec i s = .next s' →
    s'.acts = s.acts ∧ s'.sessions = s.sessions ∧ s'.now = s.now ∧ s'.nextTick = s.nextTick ∧ s'.trace = s.trace ∧
    exec i (s.withMotion acts sessions now nextTick trace) = .next (s'.withMotion acts sessions now nextTick trace))

/-- R282, first case: a rising edge at the instant a response window ends, in both orders. Edge first: the timer is due no
more and the bit is sampled T_SAMPLE later. Timer first: the cycle times out, and the edge finds the detector off. -/
def Obligations.EdgeAtTheEndOfItsWindow : Prop :=
  ∀ (s : State) (c : Fin 3), s.cfg.wf → s.BusDue c → s.chains[c].phase = .await → s.chains[c].timeoutFlag = true →
    s.chains[c].edgeArmed = true → s.chains[c].lineIn = false →
    (∃ s₁, s.after (lineOf c true) = some s₁ ∧ exec (busTimerOf c) s₁ = .fault .notDue ∧
      s₁.chains[c].busDeadline = s.t + s.cfg.tSample ∧ s₁.chains[c].timeoutFlag = false ∧
      ∃ s₂, s₁.callback c = some s₂ ∧ s₂.t = s.t + s.cfg.tSample ∧
        s₂.chains[c].shiftReg = s.chains[c].shiftReg ||| s.chains[c].bitMask) ∧
    (∃ s₁, s.after (busTimerOf c) = some s₁ ∧ s₁.chains[c].phase = .start ∧ s₁.chains[c].slots = s.chains[c].slots ∧
      s₁.after (lineOf c true) =
        some { s₁ with chains := s₁.chains.set c { s₁.chains[c] with lineIn := true } })
end

