-- ==== Sys2Proof/Laws/Chain.lean ====
section
/-! SUPPORT. What each primitive on a chain (Machine/Ops.lean) does to each register, by rfl; then the slots; then which
registers an interpretation leaves alone. -/

namespace Sys2Proof.Machine

open Sys2Proof

@[simp] theorem Chain.drive_lineDir (ch : Chain) (lv : Bool) : (ch.drive lv).lineDir = ch.lineDir := rfl
@[simp] theorem Chain.drive_lineOut (ch : Chain) (lv : Bool) : (ch.drive lv).lineOut = lv := rfl
@[simp] theorem Chain.drive_lineIn (ch : Chain) (lv : Bool) : (ch.drive lv).lineIn = ch.lineIn := rfl
@[simp] theorem Chain.drive_busDeadline (ch : Chain) (lv : Bool) : (ch.drive lv).busDeadline = ch.busDeadline := rfl
@[simp] theorem Chain.drive_edgeArmed (ch : Chain) (lv : Bool) : (ch.drive lv).edgeArmed = ch.edgeArmed := rfl
@[simp] theorem Chain.drive_phase (ch : Chain) (lv : Bool) : (ch.drive lv).phase = ch.phase := rfl
@[simp] theorem Chain.drive_byteIndex (ch : Chain) (lv : Bool) : (ch.drive lv).byteIndex = ch.byteIndex := rfl
@[simp] theorem Chain.drive_bitMask (ch : Chain) (lv : Bool) : (ch.drive lv).bitMask = ch.bitMask := rfl
@[simp] theorem Chain.drive_shiftReg (ch : Chain) (lv : Bool) : (ch.drive lv).shiftReg = ch.shiftReg := rfl
@[simp] theorem Chain.drive_cs (ch : Chain) (lv : Bool) : (ch.drive lv).cs = ch.cs := rfl
@[simp] theorem Chain.drive_timeoutFlag (ch : Chain) (lv : Bool) : (ch.drive lv).timeoutFlag = ch.timeoutFlag := rfl
@[simp] theorem Chain.drive_slotIndex (ch : Chain) (lv : Bool) : (ch.drive lv).slotIndex = ch.slotIndex := rfl
@[simp] theorem Chain.drive_lpValid (ch : Chain) (lv : Bool) : (ch.drive lv).lpValid = ch.lpValid := rfl
@[simp] theorem Chain.drive_lpSlot (ch : Chain) (lv : Bool) : (ch.drive lv).lpSlot = ch.lpSlot := rfl
@[simp] theorem Chain.drive_slots (ch : Chain) (lv : Bool) : (ch.drive lv).slots = ch.slots := rfl
@[simp] theorem Chain.drive_ledPair0 (ch : Chain) (lv : Bool) : (ch.drive lv).ledPair0 = ch.ledPair0 := rfl
@[simp] theorem Chain.drive_ledPair1 (ch : Chain) (lv : Bool) : (ch.drive lv).ledPair1 = ch.ledPair1 := rfl

@[simp] theorem Chain.setDir_lineDir (ch : Chain) (d : Dir) : (ch.setDir d).lineDir = d := rfl
@[simp] theorem Chain.setDir_lineOut (ch : Chain) (d : Dir) : (ch.setDir d).lineOut = ch.lineOut := rfl
@[simp] theorem Chain.setDir_lineIn (ch : Chain) (d : Dir) : (ch.setDir d).lineIn = ch.lineIn := rfl
@[simp] theorem Chain.setDir_busDeadline (ch : Chain) (d : Dir) : (ch.setDir d).busDeadline = ch.busDeadline := rfl
@[simp] theorem Chain.setDir_edgeArmed (ch : Chain) (d : Dir) : (ch.setDir d).edgeArmed = ch.edgeArmed := rfl
@[simp] theorem Chain.setDir_phase (ch : Chain) (d : Dir) : (ch.setDir d).phase = ch.phase := rfl
@[simp] theorem Chain.setDir_byteIndex (ch : Chain) (d : Dir) : (ch.setDir d).byteIndex = ch.byteIndex := rfl
@[simp] theorem Chain.setDir_bitMask (ch : Chain) (d : Dir) : (ch.setDir d).bitMask = ch.bitMask := rfl
@[simp] theorem Chain.setDir_shiftReg (ch : Chain) (d : Dir) : (ch.setDir d).shiftReg = ch.shiftReg := rfl
@[simp] theorem Chain.setDir_cs (ch : Chain) (d : Dir) : (ch.setDir d).cs = ch.cs := rfl
@[simp] theorem Chain.setDir_timeoutFlag (ch : Chain) (d : Dir) : (ch.setDir d).timeoutFlag = ch.timeoutFlag := rfl
@[simp] theorem Chain.setDir_slotIndex (ch : Chain) (d : Dir) : (ch.setDir d).slotIndex = ch.slotIndex := rfl
@[simp] theorem Chain.setDir_lpValid (ch : Chain) (d : Dir) : (ch.setDir d).lpValid = ch.lpValid := rfl
@[simp] theorem Chain.setDir_lpSlot (ch : Chain) (d : Dir) : (ch.setDir d).lpSlot = ch.lpSlot := rfl
@[simp] theorem Chain.setDir_slots (ch : Chain) (d : Dir) : (ch.setDir d).slots = ch.slots := rfl
@[simp] theorem Chain.setDir_ledPair0 (ch : Chain) (d : Dir) : (ch.setDir d).ledPair0 = ch.ledPair0 := rfl
@[simp] theorem Chain.setDir_ledPair1 (ch : Chain) (d : Dir) : (ch.setDir d).ledPair1 = ch.ledPair1 := rfl

@[simp] theorem Chain.arm_lineDir (ch : Chain) (t dur : Nat) : (ch.arm t dur).lineDir = ch.lineDir := rfl
@[simp] theorem Chain.arm_lineOut (ch : Chain) (t dur : Nat) : (ch.arm t dur).lineOut = ch.lineOut := rfl
@[simp] theorem Chain.arm_lineIn (ch : Chain) (t dur : Nat) : (ch.arm t dur).lineIn = ch.lineIn := rfl
@[simp] theorem Chain.arm_busDeadline (ch : Chain) (t dur : Nat) : (ch.arm t dur).busDeadline = t + dur := rfl
@[simp] theorem Chain.arm_edgeArmed (ch : Chain) (t dur : Nat) : (ch.arm t dur).edgeArmed = ch.edgeArmed := rfl
@[simp] theorem Chain.arm_phase (ch : Chain) (t dur : Nat) : (ch.arm t dur).phase = ch.phase := rfl
@[simp] theorem Chain.arm_byteIndex (ch : Chain) (t dur : Nat) : (ch.arm t dur).byteIndex = ch.byteIndex := rfl
@[simp] theorem Chain.arm_bitMask (ch : Chain) (t dur : Nat) : (ch.arm t dur).bitMask = ch.bitMask := rfl
@[simp] theorem Chain.arm_shiftReg (ch : Chain) (t dur : Nat) : (ch.arm t dur).shiftReg = ch.shiftReg := rfl
@[simp] theorem Chain.arm_cs (ch : Chain) (t dur : Nat) : (ch.arm t dur).cs = ch.cs := rfl
@[simp] theorem Chain.arm_timeoutFlag (ch : Chain) (t dur : Nat) : (ch.arm t dur).timeoutFlag = ch.timeoutFlag := rfl
@[simp] theorem Chain.arm_slotIndex (ch : Chain) (t dur : Nat) : (ch.arm t dur).slotIndex = ch.slotIndex := rfl
@[simp] theorem Chain.arm_lpValid (ch : Chain) (t dur : Nat) : (ch.arm t dur).lpValid = ch.lpValid := rfl
@[simp] theorem Chain.arm_lpSlot (ch : Chain) (t dur : Nat) : (ch.arm t dur).lpSlot = ch.lpSlot := rfl
@[simp] theorem Chain.arm_slots (ch : Chain) (t dur : Nat) : (ch.arm t dur).slots = ch.slots := rfl
@[simp] theorem Chain.arm_ledPair0 (ch : Chain) (t dur : Nat) : (ch.arm t dur).ledPair0 = ch.ledPair0 := rfl
@[simp] theorem Chain.arm_ledPair1 (ch : Chain) (t dur : Nat) : (ch.arm t dur).ledPair1 = ch.ledPair1 := rfl

@[simp] theorem Chain.edgeOn_lineDir (ch : Chain) : (ch.edgeOn).lineDir = ch.lineDir := rfl
@[simp] theorem Chain.edgeOn_lineOut (ch : Chain) : (ch.edgeOn).lineOut = ch.lineOut := rfl
@[simp] theorem Chain.edgeOn_lineIn (ch : Chain) : (ch.edgeOn).lineIn = ch.lineIn := rfl
@[simp] theorem Chain.edgeOn_busDeadline (ch : Chain) : (ch.edgeOn).busDeadline = ch.busDeadline := rfl
@[simp] theorem Chain.edgeOn_edgeArmed (ch : Chain) : (ch.edgeOn).edgeArmed = true := rfl
@[simp] theorem Chain.edgeOn_phase (ch : Chain) : (ch.edgeOn).phase = ch.phase := rfl
@[simp] theorem Chain.edgeOn_byteIndex (ch : Chain) : (ch.edgeOn).byteIndex = ch.byteIndex := rfl
@[simp] theorem Chain.edgeOn_bitMask (ch : Chain) : (ch.edgeOn).bitMask = ch.bitMask := rfl
@[simp] theorem Chain.edgeOn_shiftReg (ch : Chain) : (ch.edgeOn).shiftReg = ch.shiftReg := rfl
@[simp] theorem Chain.edgeOn_cs (ch : Chain) : (ch.edgeOn).cs = ch.cs := rfl
@[simp] theorem Chain.edgeOn_timeoutFlag (ch : Chain) : (ch.edgeOn).timeoutFlag = ch.timeoutFlag := rfl
@[simp] theorem Chain.edgeOn_slotIndex (ch : Chain) : (ch.edgeOn).slotIndex = ch.slotIndex := rfl
@[simp] theorem Chain.edgeOn_lpValid (ch : Chain) : (ch.edgeOn).lpValid = ch.lpValid := rfl
@[simp] theorem Chain.edgeOn_lpSlot (ch : Chain) : (ch.edgeOn).lpSlot = ch.lpSlot := rfl
@[simp] theorem Chain.edgeOn_slots (ch : Chain) : (ch.edgeOn).slots = ch.slots := rfl
@[simp] theorem Chain.edgeOn_ledPair0 (ch : Chain) : (ch.edgeOn).ledPair0 = ch.ledPair0 := rfl
@[simp] theorem Chain.edgeOn_ledPair1 (ch : Chain) : (ch.edgeOn).ledPair1 = ch.ledPair1 := rfl

@[simp] theorem Chain.edgeOff_lineDir (ch : Chain) : (ch.edgeOff).lineDir = ch.lineDir := rfl
@[simp] theorem Chain.edgeOff_lineOut (ch : Chain) : (ch.edgeOff).lineOut = ch.lineOut := rfl
@[simp] theorem Chain.edgeOff_lineIn (ch : Chain) : (ch.edgeOff).lineIn = ch.lineIn := rfl
@[simp] theorem Chain.edgeOff_busDeadline (ch : Chain) : (ch.edgeOff).busDeadline = ch.busDeadline := rfl
@[simp] theorem Chain.edgeOff_edgeArmed (ch : Chain) : (ch.edgeOff).edgeArmed = false := rfl
@[simp] theorem Chain.edgeOff_phase (ch : Chain) : (ch.edgeOff).phase = ch.phase := rfl
@[simp] theorem Chain.edgeOff_byteIndex (ch : Chain) : (ch.edgeOff).byteIndex = ch.byteIndex := rfl
@[simp] theorem Chain.edgeOff_bitMask (ch : Chain) : (ch.edgeOff).bitMask = ch.bitMask := rfl
@[simp] theorem Chain.edgeOff_shiftReg (ch : Chain) : (ch.edgeOff).shiftReg = ch.shiftReg := rfl
@[simp] theorem Chain.edgeOff_cs (ch : Chain) : (ch.edgeOff).cs = ch.cs := rfl
@[simp] theorem Chain.edgeOff_timeoutFlag (ch : Chain) : (ch.edgeOff).timeoutFlag = ch.timeoutFlag := rfl
@[simp] theorem Chain.edgeOff_slotIndex (ch : Chain) : (ch.edgeOff).slotIndex = ch.slotIndex := rfl
@[simp] theorem Chain.edgeOff_lpValid (ch : Chain) : (ch.edgeOff).lpValid = ch.lpValid := rfl
@[simp] theorem Chain.edgeOff_lpSlot (ch : Chain) : (ch.edgeOff).lpSlot = ch.lpSlot := rfl
@[simp] theorem Chain.edgeOff_slots (ch : Chain) : (ch.edgeOff).slots = ch.slots := rfl
@[simp] theorem Chain.edgeOff_ledPair0 (ch : Chain) : (ch.edgeOff).ledPair0 = ch.ledPair0 := rfl
@[simp] theorem Chain.edgeOff_ledPair1 (ch : Chain) : (ch.edgeOff).ledPair1 = ch.ledPair1 := rfl

@[simp] theorem Chain.updSlot_lineDir (ch : Chain) (s : Fin 4) (f : Slot → Slot) : (ch.updSlot s f).lineDir = ch.lineDir := rfl
@[simp] theorem Chain.updSlot_lineOut (ch : Chain) (s : Fin 4) (f : Slot → Slot) : (ch.updSlot s f).lineOut = ch.lineOut := rfl
@[simp] theorem Chain.updSlot_lineIn (ch : Chain) (s : Fin 4) (f : Slot → Slot) : (ch.updSlot s f).lineIn = ch.lineIn := rfl
@[simp] theorem Chain.updSlot_busDeadline (ch : Chain) (s : Fin 4) (f : Slot → Slot) : (ch.updSlot s f).busDeadline = ch.busDeadline := rfl
@[simp] theorem Chain.updSlot_edgeArmed (ch : Chain) (s : Fin 4) (f : Slot → Slot) : (ch.updSlot s f).edgeArmed = ch.edgeArmed := rfl
@[simp] theorem Chain.updSlot_phase (ch : Chain) (s : Fin 4) (f : Slot → Slot) : (ch.updSlot s f).phase = ch.phase := rfl
@[simp] theorem Chain.updSlot_byteIndex (ch : Chain) (s : Fin 4) (f : Slot → Slot) : (ch.updSlot s f).byteIndex = ch.byteIndex := rfl
@[simp] theorem Chain.updSlot_bitMask (ch : Chain) (s : Fin 4) (f : Slot → Slot) : (ch.updSlot s f).bitMask = ch.bitMask := rfl
@[simp] theorem Chain.updSlot_shiftReg (ch : Chain) (s : Fin 4) (f : Slot → Slot) : (ch.updSlot s f).shiftReg = ch.shiftReg := rfl
@[simp] theorem Chain.updSlot_cs (ch : Chain) (s : Fin 4) (f : Slot → Slot) : (ch.updSlot s f).cs = ch.cs := rfl
@[simp] theorem Chain.updSlot_timeoutFlag (ch : Chain) (s : Fin 4) (f : Slot → Slot) : (ch.updSlot s f).timeoutFlag = ch.timeoutFlag := rfl
@[simp] theorem Chain.updSlot_slotIndex (ch : Chain) (s : Fin 4) (f : Slot → Slot) : (ch.updSlot s f).slotIndex = ch.slotIndex := rfl
@[simp] theorem Chain.updSlot_lpValid (ch : Chain) (s : Fin 4) (f : Slot → Slot) : (ch.updSlot s f).lpValid = ch.lpValid := rfl
@[simp] theorem Chain.updSlot_lpSlot (ch : Chain) (s : Fin 4) (f : Slot → Slot) : (ch.updSlot s f).lpSlot = ch.lpSlot := rfl
@[simp] theorem Chain.updSlot_slots (ch : Chain) (s : Fin 4) (f : Slot → Slot) : (ch.updSlot s f).slots = ch.slots.set s (f ch.slots[s]) := rfl
@[simp] theorem Chain.updSlot_ledPair0 (ch : Chain) (s : Fin 4) (f : Slot → Slot) : (ch.updSlot s f).ledPair0 = ch.ledPair0 := rfl
@[simp] theorem Chain.updSlot_ledPair1 (ch : Chain) (s : Fin 4) (f : Slot → Slot) : (ch.updSlot s f).ledPair1 = ch.ledPair1 := rfl

@[simp] theorem Chain.setPending_lineDir (ch : Chain) (s : Fin 4) (b : Byte) : (ch.setPending s b).lineDir = ch.lineDir := rfl
@[simp] theorem Chain.setPending_lineOut (ch : Chain) (s : Fin 4) (b : Byte) : (ch.setPending s b).lineOut = ch.lineOut := rfl
@[simp] theorem Chain.setPending_lineIn (ch : Chain) (s : Fin 4) (b : Byte) : (ch.setPending s b).lineIn = ch.lineIn := rfl
@[simp] theorem Chain.setPending_busDeadline (ch : Chain) (s : Fin 4) (b : Byte) : (ch.setPending s b).busDeadline = ch.busDeadline := rfl
@[simp] theorem Chain.setPending_edgeArmed (ch : Chain) (s : Fin 4) (b : Byte) : (ch.setPending s b).edgeArmed = ch.edgeArmed := rfl
@[simp] theorem Chain.setPending_phase (ch : Chain) (s : Fin 4) (b : Byte) : (ch.setPending s b).phase = ch.phase := rfl
@[simp] theorem Chain.setPending_byteIndex (ch : Chain) (s : Fin 4) (b : Byte) : (ch.setPending s b).byteIndex = ch.byteIndex := rfl
@[simp] theorem Chain.setPending_bitMask (ch : Chain) (s : Fin 4) (b : Byte) : (ch.setPending s b).bitMask = ch.bitMask := rfl
@[simp] theorem Chain.setPending_shiftReg (ch : Chain) (s : Fin 4) (b : Byte) : (ch.setPending s b).shiftReg = ch.shiftReg := rfl
@[simp] theorem Chain.setPending_cs (ch : Chain) (s : Fin 4) (b : Byte) : (ch.setPending s b).cs = ch.cs := rfl
@[simp] theorem Chain.setPending_timeoutFlag (ch : Chain) (s : Fin 4) (b : Byte) : (ch.setPending s b).timeoutFlag = ch.timeoutFlag := rfl
@[simp] theorem Chain.setPending_slotIndex (ch : Chain) (s : Fin 4) (b : Byte) : (ch.setPending s b).slotIndex = ch.slotIndex := rfl
@[simp] theorem Chain.setPending_lpValid (ch : Chain) (s : Fin 4) (b : Byte) : (ch.setPending s b).lpValid = ch.lpValid := rfl
@[simp] theorem Chain.setPending_lpSlot (ch : Chain) (s : Fin 4) (b : Byte) : (ch.setPending s b).lpSlot = ch.lpSlot := rfl
@[simp] theorem Chain.setPending_slots (ch : Chain) (s : Fin 4) (b : Byte) : (ch.setPending s b).slots = ch.slots.set s { ch.slots[s] with pending := b } := rfl
@[simp] theorem Chain.setPending_ledPair0 (ch : Chain) (s : Fin 4) (b : Byte) : (ch.setPending s b).ledPair0 = ch.ledPair0 := rfl
@[simp] theorem Chain.setPending_ledPair1 (ch : Chain) (s : Fin 4) (b : Byte) : (ch.setPending s b).ledPair1 = ch.ledPair1 := rfl

/-- A read of slot `k` after an update of slot `s`. -/
theorem Chain.updSlot_getElem (ch : Chain) (s k : Fin 4) (f : Slot → Slot) :
    (ch.updSlot s f).slots[k] = if s = k then f ch.slots[s] else ch.slots[k] := by
  simp [Vector.getElem_set, Fin.ext_iff]

@[simp] theorem Chain.ledPair_false (ch : Chain) : ch.ledPair false = ch.ledPair0 := rfl
@[simp] theorem Chain.ledPair_true (ch : Chain) : ch.ledPair true = ch.ledPair1 := rfl

/-- An interpretation (R146) changes the slot table and nothing else. -/
theorem Chain.interpret_only_slots (ch : Chain) (s : Fin 4) (r : Byte) :
    ch.interpret s r = { ch with slots := (ch.interpret s r).slots } := by
  unfold Chain.interpret
  simp only []
  repeat' split
  all_goals rfl

/-- The slots after an interpretation (R147), slot by slot. -/
theorem Chain.interpret_slot (ch : Chain) (s k : Fin 4) (r : Byte) :
    (ch.interpret s r).slots[k] =
      if r = 0x00 then
        if s ≤ k then { ch.slots[k] with mtype := .unknown, pending := 0xFE, ledPhase := false } else ch.slots[k]
      else if s ≠ k then ch.slots[k]
      else if ch.slots[s].mtype = .led then
        { ch.slots[s] with ledPhase := !ch.slots[s].ledPhase, pending := ch.ledPair !ch.slots[s].ledPhase }
      else if r = 0xFE then { ch.slots[s] with pending := 0xFC }
      else if r = 0x01 ∧ ch.slots[s].mtype = .unknown then { ch.slots[s] with mtype := .servo, pending := 0xF4 }
      else if r = 0x02 ∧ ch.slots[s].mtype = .unknown then
        { ch.slots[s] with mtype := .led, ledPhase := false, pending := ch.ledPair0 }
      else ch.slots[s] := by
  by_cases hk : s = k
  · subst hk
    unfold Chain.interpret Chain.setPending
    simp only []
    repeat' split
    all_goals simp_all
  · have hv : s.val ≠ k.val := fun h => hk (Fin.ext h)
    unfold Chain.interpret Chain.setPending
    simp only [hk, ne_eq, not_false_eq_true, if_true]
    repeat' split
    all_goals simp_all

end Sys2Proof.Machine
end

