-- ==== Sys2Proof/Laws/Decode.lean ====
section
/-! SUPPORT. The fields of the words that the encoder makes (30_encoding.md R100, R110), and a word from its fields. -/

namespace Sys2Proof

@[simp] theorem opField_commandWord (op : Byte) (f : CmdFields) : opField (commandWord op f) = op := by
  simp only [opField, commandWord]
  ext i hi
  simp
  grind

@[simp] theorem cmdFields_commandWord (op : Byte) (f : CmdFields) : cmdFields (commandWord op f) = f := by
  cases f
  simp only [cmdFields, chField, rsvField, commandWord, CmdFields.mk.injEq]
  refine ⟨?_, ?_, ?_, ?_⟩ <;> ext i hi <;> simp <;> grind

/-- A word is its own fields put together again (R100). -/
theorem commandWord_fields (w : Word) : commandWord (opField w) (cmdFields w) = w := by
  simp only [opField, cmdFields, chField, rsvField, commandWord]
  ext i hi
  simp
  grind

@[simp] theorem opField_eventWord (ev : Byte) (lv : Bool) (ch : BitVec 2) : opField (eventWord ev lv ch) = ev := by
  simp only [opField, eventWord]
  ext i hi
  simp
  grind

@[simp] theorem chField_eventWord (ev : Byte) (lv : Bool) (ch : BitVec 2) : chField (eventWord ev lv ch) = ch := by
  simp only [chField, eventWord]
  ext i hi
  simp
  grind

@[simp] theorem lvField_eventWord (ev : Byte) (lv : Bool) (ch : BitVec 2) :
    lvField (eventWord ev lv ch) = BitVec.ofBool lv := by
  simp only [lvField, eventWord]
  ext i hi
  have : i = 0 := by omega
  subst this
  simp
  grind

@[simp] theorem midZeroField_eventWord (ev : Byte) (lv : Bool) (ch : BitVec 2) :
    midZeroField (eventWord ev lv ch) = 0 := by
  simp only [midZeroField, eventWord]
  ext i hi
  simp
  grind

@[simp] theorem rsvField_eventWord (ev : Byte) (lv : Bool) (ch : BitVec 2) : rsvField (eventWord ev lv ch) = 0 := by
  simp only [rsvField, eventWord]
  ext i hi
  simp
  grind

/-- An event word with its zero fields 0 is its other fields put together again (R110). -/
theorem eventWord_fields (w : Word) (hm : midZeroField w = 0) (hr : rsvField w = 0) :
    eventWord (opField w) (lvField w == 1) (chField w) = w := by
  have hm' : ∀ i < 15, w.getLsbD (9 + i) = false := fun i hi => by
    simpa [midZeroField, hi] using congrArg (BitVec.getLsbD · i) hm
  have hr' : ∀ i < 6, w.getLsbD (26 + i) = false := fun i hi => by
    simpa [rsvField, hi] using congrArg (BitVec.getLsbD · i) hr
  have hl : ∀ l : BitVec 1, BitVec.ofBool (l == 1) = l := by decide
  simp only [eventWord, hl, opField, chField, lvField]
  ext i hi
  have h1 := hm' (i - 9)
  have h2 := hr' (i - 26)
  have h3 : w.getLsbD i = w[i] := BitVec.getLsbD_eq_getElem hi
  simp
  grind

/-- The four bytes of a word, put together again (R73). -/
theorem wordOfBytes_bytes (v : Word) :
    wordOfBytes (byteOfWord v 0) (byteOfWord v 1) (byteOfWord v 2) (byteOfWord v 3) = v := by
  simp only [wordOfBytes, byteOfWord]
  ext i hi
  simp
  grind

end Sys2Proof
end

