-- ==== Sys2Proof/Laws/State.lean ====
section
/-! SUPPORT. What each update of State (Machine/Flags.lean, Machine/Ops.lean) does to each field: one lemma per field, all by
rfl; then what a read of one chain, actuator or session gives after an update of one. -/

namespace Sys2Proof.Machine

open Sys2Proof

@[simp] theorem State.raiseErr_cfg (s : State) (e : ErrFlag) : (s.raiseErr e).cfg = s.cfg := rfl
@[simp] theorem State.raiseErr_started (s : State) (e : ErrFlag) : (s.raiseErr e).started = s.started := rfl
@[simp] theorem State.raiseErr_t (s : State) (e : ErrFlag) : (s.raiseErr e).t = s.t := rfl
@[simp] theorem State.raiseErr_chains (s : State) (e : ErrFlag) : (s.raiseErr e).chains = s.chains := rfl
@[simp] theorem State.raiseErr_now (s : State) (e : ErrFlag) : (s.raiseErr e).now = s.now := rfl
@[simp] theorem State.raiseErr_nextTick (s : State) (e : ErrFlag) : (s.raiseErr e).nextTick = s.nextTick := rfl
@[simp] theorem State.raiseErr_sessions (s : State) (e : ErrFlag) : (s.raiseErr e).sessions = s.sessions := rfl
@[simp] theorem State.raiseErr_acts (s : State) (e : ErrFlag) : (s.raiseErr e).acts = s.acts := rfl
@[simp] theorem State.raiseErr_arg0 (s : State) (e : ErrFlag) : (s.raiseErr e).arg0 = s.arg0 := rfl
@[simp] theorem State.raiseErr_arg1 (s : State) (e : ErrFlag) : (s.raiseErr e).arg1 = s.arg1 := rfl
@[simp] theorem State.raiseErr_arg2 (s : State) (e : ErrFlag) : (s.raiseErr e).arg2 = s.arg2 := rfl
@[simp] theorem State.raiseErr_result (s : State) (e : ErrFlag) : (s.raiseErr e).result = s.result := rfl
@[simp] theorem State.raiseErr_err (s : State) (e : ErrFlag) : (s.raiseErr e).err = s.err ||| e.mask := rfl
@[simp] theorem State.raiseErr_trace (s : State) (e : ErrFlag) : (s.raiseErr e).trace = s.trace := rfl
@[simp] theorem State.raiseErr_reads (s : State) (e : ErrFlag) : (s.raiseErr e).reads = s.reads := rfl
@[simp] theorem State.raiseErr_inputs (s : State) (e : ErrFlag) : (s.raiseErr e).inputs = s.inputs := rfl
@[simp] theorem State.raiseErr_choices (s : State) (e : ErrFlag) : (s.raiseErr e).choices = s.choices := rfl

@[simp] theorem State.updChain_cfg (s : State) (c : Fin 3) (f : Chain → Chain) : (s.updChain c f).cfg = s.cfg := rfl
@[simp] theorem State.updChain_started (s : State) (c : Fin 3) (f : Chain → Chain) : (s.updChain c f).started = s.started := rfl
@[simp] theorem State.updChain_t (s : State) (c : Fin 3) (f : Chain → Chain) : (s.updChain c f).t = s.t := rfl
@[simp] theorem State.updChain_chains (s : State) (c : Fin 3) (f : Chain → Chain) : (s.updChain c f).chains = s.chains.set c (f s.chains[c]) := rfl
@[simp] theorem State.updChain_now (s : State) (c : Fin 3) (f : Chain → Chain) : (s.updChain c f).now = s.now := rfl
@[simp] theorem State.updChain_nextTick (s : State) (c : Fin 3) (f : Chain → Chain) : (s.updChain c f).nextTick = s.nextTick := rfl
@[simp] theorem State.updChain_sessions (s : State) (c : Fin 3) (f : Chain → Chain) : (s.updChain c f).sessions = s.sessions := rfl
@[simp] theorem State.updChain_acts (s : State) (c : Fin 3) (f : Chain → Chain) : (s.updChain c f).acts = s.acts := rfl
@[simp] theorem State.updChain_arg0 (s : State) (c : Fin 3) (f : Chain → Chain) : (s.updChain c f).arg0 = s.arg0 := rfl
@[simp] theorem State.updChain_arg1 (s : State) (c : Fin 3) (f : Chain → Chain) : (s.updChain c f).arg1 = s.arg1 := rfl
@[simp] theorem State.updChain_arg2 (s : State) (c : Fin 3) (f : Chain → Chain) : (s.updChain c f).arg2 = s.arg2 := rfl
@[simp] theorem State.updChain_result (s : State) (c : Fin 3) (f : Chain → Chain) : (s.updChain c f).result = s.result := rfl
@[simp] theorem State.updChain_err (s : State) (c : Fin 3) (f : Chain → Chain) : (s.updChain c f).err = s.err := rfl
@[simp] theorem State.updChain_trace (s : State) (c : Fin 3) (f : Chain → Chain) : (s.updChain c f).trace = s.trace := rfl
@[simp] theorem State.updChain_reads (s : State) (c : Fin 3) (f : Chain → Chain) : (s.updChain c f).reads = s.reads := rfl
@[simp] theorem State.updChain_inputs (s : State) (c : Fin 3) (f : Chain → Chain) : (s.updChain c f).inputs = s.inputs := rfl
@[simp] theorem State.updChain_choices (s : State) (c : Fin 3) (f : Chain → Chain) : (s.updChain c f).choices = s.choices := rfl

@[simp] theorem State.updAct_cfg (s : State) (i : Fin 8) (f : Actuator → Actuator) : (s.updAct i f).cfg = s.cfg := rfl
@[simp] theorem State.updAct_started (s : State) (i : Fin 8) (f : Actuator → Actuator) : (s.updAct i f).started = s.started := rfl
@[simp] theorem State.updAct_t (s : State) (i : Fin 8) (f : Actuator → Actuator) : (s.updAct i f).t = s.t := rfl
@[simp] theorem State.updAct_chains (s : State) (i : Fin 8) (f : Actuator → Actuator) : (s.updAct i f).chains = s.chains := rfl
@[simp] theorem State.updAct_now (s : State) (i : Fin 8) (f : Actuator → Actuator) : (s.updAct i f).now = s.now := rfl
@[simp] theorem State.updAct_nextTick (s : State) (i : Fin 8) (f : Actuator → Actuator) : (s.updAct i f).nextTick = s.nextTick := rfl
@[simp] theorem State.updAct_sessions (s : State) (i : Fin 8) (f : Actuator → Actuator) : (s.updAct i f).sessions = s.sessions := rfl
@[simp] theorem State.updAct_acts (s : State) (i : Fin 8) (f : Actuator → Actuator) : (s.updAct i f).acts = s.acts.set i (f s.acts[i]) := rfl
@[simp] theorem State.updAct_arg0 (s : State) (i : Fin 8) (f : Actuator → Actuator) : (s.updAct i f).arg0 = s.arg0 := rfl
@[simp] theorem State.updAct_arg1 (s : State) (i : Fin 8) (f : Actuator → Actuator) : (s.updAct i f).arg1 = s.arg1 := rfl
@[simp] theorem State.updAct_arg2 (s : State) (i : Fin 8) (f : Actuator → Actuator) : (s.updAct i f).arg2 = s.arg2 := rfl
@[simp] theorem State.updAct_result (s : State) (i : Fin 8) (f : Actuator → Actuator) : (s.updAct i f).result = s.result := rfl
@[simp] theorem State.updAct_err (s : State) (i : Fin 8) (f : Actuator → Actuator) : (s.updAct i f).err = s.err := rfl
@[simp] theorem State.updAct_trace (s : State) (i : Fin 8) (f : Actuator → Actuator) : (s.updAct i f).trace = s.trace := rfl
@[simp] theorem State.updAct_reads (s : State) (i : Fin 8) (f : Actuator → Actuator) : (s.updAct i f).reads = s.reads := rfl
@[simp] theorem State.updAct_inputs (s : State) (i : Fin 8) (f : Actuator → Actuator) : (s.updAct i f).inputs = s.inputs := rfl
@[simp] theorem State.updAct_choices (s : State) (i : Fin 8) (f : Actuator → Actuator) : (s.updAct i f).choices = s.choices := rfl

@[simp] theorem State.updSession_cfg (s : State) (a : Fin 2) (f : Session → Session) : (s.updSession a f).cfg = s.cfg := rfl
@[simp] theorem State.updSession_started (s : State) (a : Fin 2) (f : Session → Session) : (s.updSession a f).started = s.started := rfl
@[simp] theorem State.updSession_t (s : State) (a : Fin 2) (f : Session → Session) : (s.updSession a f).t = s.t := rfl
@[simp] theorem State.updSession_chains (s : State) (a : Fin 2) (f : Session → Session) : (s.updSession a f).chains = s.chains := rfl
@[simp] theorem State.updSession_now (s : State) (a : Fin 2) (f : Session → Session) : (s.updSession a f).now = s.now := rfl
@[simp] theorem State.updSession_nextTick (s : State) (a : Fin 2) (f : Session → Session) : (s.updSession a f).nextTick = s.nextTick := rfl
@[simp] theorem State.updSession_sessions (s : State) (a : Fin 2) (f : Session → Session) : (s.updSession a f).sessions = s.sessions.set a (f s.sessions[a]) := rfl
@[simp] theorem State.updSession_acts (s : State) (a : Fin 2) (f : Session → Session) : (s.updSession a f).acts = s.acts := rfl
@[simp] theorem State.updSession_arg0 (s : State) (a : Fin 2) (f : Session → Session) : (s.updSession a f).arg0 = s.arg0 := rfl
@[simp] theorem State.updSession_arg1 (s : State) (a : Fin 2) (f : Session → Session) : (s.updSession a f).arg1 = s.arg1 := rfl
@[simp] theorem State.updSession_arg2 (s : State) (a : Fin 2) (f : Session → Session) : (s.updSession a f).arg2 = s.arg2 := rfl
@[simp] theorem State.updSession_result (s : State) (a : Fin 2) (f : Session → Session) : (s.updSession a f).result = s.result := rfl
@[simp] theorem State.updSession_err (s : State) (a : Fin 2) (f : Session → Session) : (s.updSession a f).err = s.err := rfl
@[simp] theorem State.updSession_trace (s : State) (a : Fin 2) (f : Session → Session) : (s.updSession a f).trace = s.trace := rfl
@[simp] theorem State.updSession_reads (s : State) (a : Fin 2) (f : Session → Session) : (s.updSession a f).reads = s.reads := rfl
@[simp] theorem State.updSession_inputs (s : State) (a : Fin 2) (f : Session → Session) : (s.updSession a f).inputs = s.inputs := rfl
@[simp] theorem State.updSession_choices (s : State) (a : Fin 2) (f : Session → Session) : (s.updSession a f).choices = s.choices := rfl

@[simp] theorem State.out_cfg (s : State) (i : Fin 8) (v : Word) : (s.out i v).cfg = s.cfg := rfl
@[simp] theorem State.out_started (s : State) (i : Fin 8) (v : Word) : (s.out i v).started = s.started := rfl
@[simp] theorem State.out_t (s : State) (i : Fin 8) (v : Word) : (s.out i v).t = s.t := rfl
@[simp] theorem State.out_chains (s : State) (i : Fin 8) (v : Word) : (s.out i v).chains = s.chains := rfl
@[simp] theorem State.out_now (s : State) (i : Fin 8) (v : Word) : (s.out i v).now = s.now := rfl
@[simp] theorem State.out_nextTick (s : State) (i : Fin 8) (v : Word) : (s.out i v).nextTick = s.nextTick := rfl
@[simp] theorem State.out_sessions (s : State) (i : Fin 8) (v : Word) : (s.out i v).sessions = s.sessions := rfl
@[simp] theorem State.out_acts (s : State) (i : Fin 8) (v : Word) : (s.out i v).acts = s.acts.set i { s.acts[i] with outReg := v } := rfl
@[simp] theorem State.out_arg0 (s : State) (i : Fin 8) (v : Word) : (s.out i v).arg0 = s.arg0 := rfl
@[simp] theorem State.out_arg1 (s : State) (i : Fin 8) (v : Word) : (s.out i v).arg1 = s.arg1 := rfl
@[simp] theorem State.out_arg2 (s : State) (i : Fin 8) (v : Word) : (s.out i v).arg2 = s.arg2 := rfl
@[simp] theorem State.out_result (s : State) (i : Fin 8) (v : Word) : (s.out i v).result = s.result := rfl
@[simp] theorem State.out_err (s : State) (i : Fin 8) (v : Word) : (s.out i v).err = s.err := rfl
@[simp] theorem State.out_trace (s : State) (i : Fin 8) (v : Word) : (s.out i v).trace = s.trace ++ [{ t := s.t, act := i, value := v }] := rfl
@[simp] theorem State.out_reads (s : State) (i : Fin 8) (v : Word) : (s.out i v).reads = s.reads := rfl
@[simp] theorem State.out_inputs (s : State) (i : Fin 8) (v : Word) : (s.out i v).inputs = s.inputs := rfl
@[simp] theorem State.out_choices (s : State) (i : Fin 8) (v : Word) : (s.out i v).choices = s.choices := rfl

/-- A read of chain `c'` after an update of chain `c`. -/
theorem State.updChain_getElem (s : State) (c c' : Fin 3) (f : Chain → Chain) :
    (s.updChain c f).chains[c'] = if c = c' then f s.chains[c] else s.chains[c'] := by
  simp [Vector.getElem_set, Fin.ext_iff]

theorem State.updChain_same (s : State) (c : Fin 3) (f : Chain → Chain) :
    (s.updChain c f).chains[c] = f s.chains[c] := by
  simp

theorem State.updChain_other (s : State) {c c' : Fin 3} (f : Chain → Chain) (h : c ≠ c') :
    (s.updChain c f).chains[c'] = s.chains[c'] := by
  simp only [State.updChain_getElem, h, if_false]

/-- A read of actuator `j` after an update of actuator `i`. -/
theorem State.updAct_getElem (s : State) (i j : Fin 8) (f : Actuator → Actuator) :
    (s.updAct i f).acts[j] = if i = j then f s.acts[i] else s.acts[j] := by
  simp [Vector.getElem_set, Fin.ext_iff]

theorem State.updAct_same (s : State) (i : Fin 8) (f : Actuator → Actuator) :
    (s.updAct i f).acts[i] = f s.acts[i] := by
  simp

theorem State.updAct_other (s : State) {i j : Fin 8} (f : Actuator → Actuator) (h : i ≠ j) :
    (s.updAct i f).acts[j] = s.acts[j] := by
  simp only [State.updAct_getElem, h, if_false]

/-- A read of actuator `j` after an `out` to actuator `i`. -/
theorem State.out_getElem (s : State) (i j : Fin 8) (v : Word) :
    (s.out i v).acts[j] = if i = j then { s.acts[i] with outReg := v } else s.acts[j] := by
  simp [Vector.getElem_set, Fin.ext_iff]

/-- A read of session `b` after an update of session `a`. -/
theorem State.updSession_getElem (s : State) (a b : Fin 2) (f : Session → Session) :
    (s.updSession a f).sessions[b] = if a = b then f s.sessions[a] else s.sessions[b] := by
  simp [Vector.getElem_set, Fin.ext_iff]

theorem State.updSession_same (s : State) (a : Fin 2) (f : Session → Session) :
    (s.updSession a f).sessions[a] = f s.sessions[a] := by
  simp

theorem State.updSession_other (s : State) {a b : Fin 2} (f : Session → Session) (h : a ≠ b) :
    (s.updSession a f).sessions[b] = s.sessions[b] := by
  simp only [State.updSession_getElem, h, if_false]

end Sys2Proof.Machine
end

