-- ==== Sys2Proof/Laws/Ops.lean ====
section
/-! SUPPORT. One lemma for each shared operation that says once what it can answer (Machine/Ops.lean, Operands.lean), cited
in place of unfolding it. -/

namespace Sys2Proof.Machine

open Sys2Proof

theorem whenStarted_next {s s' : State} {r : StepOutcome} (h : whenStarted s r = .next s') :
    s.started = true ∧ r = .next s' := by
  unfold whenStarted at h
  split at h
  · exact ⟨by assumption, h⟩
  · cases h

@[simp] theorem whenStarted_started {s : State} {r : StepOutcome} (h : s.started = true) : whenStarted s r = r := by
  simp [whenStarted, h]

theorem whenStarted_before {s : State} {r : StepOutcome} (h : s.started = false) :
    whenStarted s r = .refused .beforeReset := by
  simp [whenStarted, h]

/-- What a command can answer with: BAD_OPERAND alone, or its effect on good operands (R101). -/
theorem command_next {α : Type} {s s' : State} {ops : Option α} {eff : α → State} (h : command s ops eff = .next s') :
    s.started = true ∧ ((ops = none ∧ s' = s.raiseErr .badOperand) ∨ ∃ x, ops = some x ∧ s' = eff x) := by
  obtain ⟨hs, h⟩ := whenStarted_next h
  refine ⟨hs, ?_⟩
  cases ops with
  | none => exact .inl ⟨rfl, by simpa using h.symm⟩
  | some x => exact .inr ⟨x, rfl, by simpa using h.symm⟩

theorem command_some {α : Type} {s : State} {x : α} {eff : α → State} (h : s.started = true) :
    command s (some x) eff = .next (eff x) := by
  simp [command, h]

theorem command_none {α : Type} {s : State} {eff : α → State} (h : s.started = true) :
    command s none eff = .next (s.raiseErr .badOperand) := by
  simp [command, h]

/-- A command never faults, and is refused only before the first RESET. -/
theorem command_answers {α : Type} {s : State} (ops : Option α) (eff : α → State) (h : s.started = true) :
    ∃ s', command s ops eff = .next s' := by
  cases ops with
  | none => exact ⟨_, command_none h⟩
  | some x => exact ⟨_, command_some h⟩

/-- A command commutes with a change `g` of the state that its effect, the start of the run and ERR commute with. -/
theorem command_map {α : Type} {s s' : State} {ops : Option α} {eff : State → α → State} (g : State → State)
    (hs : (g s).started = s.started) (hb : (g s).raiseErr .badOperand = g (s.raiseErr .badOperand))
    (he : ∀ x, eff (g s) x = g (eff s x)) (h : command s ops (eff s) = .next s') :
    command (g s) ops (eff (g s)) = .next (g s') := by
  obtain ⟨h1, ⟨rfl, rfl⟩ | ⟨x, rfl, rfl⟩⟩ := command_next h
  · rw [← hb]
    exact command_none (hs.trans h1)
  · rw [← he]
    exact command_some (hs.trans h1)

/-- CH names chain `c` exactly if it is `c`'s number and the chain exists (R102). -/
theorem chainIndex_eq_some {cfg : Config} {ch : BitVec 2} {c : Fin 3} :
    chainIndex cfg ch = some c ↔ ch.toNat = c.val ∧ c.val < cfg.nChains.toNat := by
  unfold chainIndex
  split
  · simp only [Option.some.injEq, Fin.ext_iff]; omega
  · simp only [reduceCtorEq, false_iff]; omega

theorem chainIndex_eq_none {cfg : Config} {ch : BitVec 2} :
    chainIndex cfg ch = none ↔ cfg.nChains.toNat ≤ ch.toNat := by
  unfold chainIndex
  split
  · simp only [reduceCtorEq, false_iff]; omega
  · simp only [true_iff]; omega

theorem chainIndex_ofNat {cfg : Config} {c : Fin 3} (h : c.val < cfg.nChains.toNat) :
    chainIndex cfg (BitVec.ofNat 2 c.val) = some c := by
  rw [chainIndex_eq_some, BitVec.toNat_ofNat]
  omega

theorem onChain_next {s s' : State} {ch : BitVec 2} {eff : Fin 3 → StepOutcome} (h : onChain s ch eff = .next s') :
    s.started = true ∧ ∃ c, chainIndex s.cfg ch = some c ∧ eff c = .next s' := by
  obtain ⟨hs, h⟩ := whenStarted_next h
  split at h
  · cases h
  · exact ⟨hs, _, by assumption, h⟩

theorem onChain_some {s : State} {ch : BitVec 2} {eff : Fin 3 → StepOutcome} {c : Fin 3} (hs : s.started = true)
    (hc : chainIndex s.cfg ch = some c) : onChain s ch eff = eff c := by
  simp [onChain, hs, hc]

theorem atDeadline_next {s x s' : State} {d : Nat} (h : atDeadline s d x = .next s') : s.t = d ∧ s' = x := by
  unfold atDeadline at h
  split at h
  · exact ⟨by assumption, by simpa using h.symm⟩
  · cases h

theorem atDeadline_due {s x : State} {d : Nat} (h : s.t = d) : atDeadline s d x = .next x := by
  simp [atDeadline, h]

/-! The operand forms: what each accepts, and what it reads. -/

theorem actOperand_eq_some {f : CmdFields} {i : Fin 8} :
    actOperand f = some i ↔ f.a.toNat = i.val ∧ f.b = 0 ∧ f.ch = 0 ∧ f.rsv = 0 := by
  unfold actOperand
  split
  · split <;> simp_all [Fin.ext_iff]
  · simp only [reduceCtorEq, false_iff]; omega

theorem maskOperand_eq_some {f : CmdFields} {m : BitVec 2} :
    maskOperand f = some m ↔ f.a.toNat = m.toNat ∧ f.b = 0 ∧ f.ch = 0 ∧ f.rsv = 0 := by
  have e : (f.a.extractLsb' 0 2).toNat = f.a.toNat % 4 := by simp
  have hm : m.toNat < 4 := m.isLt
  unfold maskOperand
  split
  · rename_i h
    simp only [Option.some.injEq, h.2, and_true]
    constructor
    · rintro rfl; omega
    · intro h'; apply BitVec.eq_of_toNat_eq; omega
  · rename_i h
    simp only [reduceCtorEq, false_iff]
    rintro ⟨h1, h2⟩
    exact h ⟨by omega, h2⟩

theorem armOperand_eq_some {f : CmdFields} {a : Fin 2} :
    armOperand f = some a ↔ f.a.toNat = a.val ∧ f.b = 0 ∧ f.ch = 0 ∧ f.rsv = 0 := by
  unfold armOperand
  split
  · split <;> simp_all [Fin.ext_iff]
  · simp only [reduceCtorEq, false_iff]; omega

theorem slotIndexOf_eq_some {a : Byte} {s : Fin 4} : slotIndexOf a = some s ↔ a.toNat = s.val := by
  unfold slotIndexOf
  split
  · simp [Fin.ext_iff]
  · simp only [reduceCtorEq, false_iff]; omega

theorem chainSlotOperand_eq_some {cfg : Config} {f : CmdFields} {c : Fin 3} {s : Fin 4} :
    chainSlotOperand cfg f = some (c, s) ↔
      f.ch.toNat = c.val ∧ c.val < cfg.nChains.toNat ∧ f.a.toNat = s.val ∧ f.rsv = 0 := by
  rw [← and_assoc, ← chainIndex_eq_some, ← slotIndexOf_eq_some]
  unfold chainSlotOperand
  cases chainIndex cfg f.ch <;> cases slotIndexOf f.a <;> simp
  tauto

theorem servoPosOperand_eq_some {cfg : Config} {f : CmdFields} {c : Fin 3} {s : Fin 4} {b : Byte} :
    servoPosOperand cfg f = some ((c, s), b) ↔
      f.ch.toNat = c.val ∧ c.val < cfg.nChains.toNat ∧ f.a.toNat = s.val ∧ f.rsv = 0 ∧ f.b.toNat ≤ 0xEF ∧ f.b = b := by
  unfold servoPosOperand
  split <;> simp [Option.map_eq_some_iff, Prod.exists, chainSlotOperand_eq_some] <;> grind

theorem servoColorOperand_eq_some {cfg : Config} {f : CmdFields} {c : Fin 3} {s : Fin 4} {b : Byte} :
    servoColorOperand cfg f = some ((c, s), b) ↔
      f.ch.toNat = c.val ∧ c.val < cfg.nChains.toNat ∧ f.a.toNat = s.val ∧ f.rsv = 0 ∧
        0xF0 ≤ f.b.toNat ∧ f.b.toNat ≤ 0xF7 ∧ f.b = b := by
  unfold servoColorOperand
  split <;> simp [Option.map_eq_some_iff, Prod.exists, chainSlotOperand_eq_some] <;> grind

theorem chainSlotOnlyOperand_eq_some {cfg : Config} {f : CmdFields} {c : Fin 3} {s : Fin 4} :
    chainSlotOnlyOperand cfg f = some (c, s) ↔
      f.ch.toNat = c.val ∧ c.val < cfg.nChains.toNat ∧ f.a.toNat = s.val ∧ f.rsv = 0 ∧ f.b = 0 := by
  unfold chainSlotOnlyOperand
  split <;> simp_all [chainSlotOperand_eq_some]

theorem chainOperand_eq_some {cfg : Config} {f : CmdFields} {c : Fin 3} :
    chainOperand cfg f = some c ↔
      f.ch.toNat = c.val ∧ c.val < cfg.nChains.toNat ∧ f.a = 0 ∧ f.b = 0 ∧ f.rsv = 0 := by
  unfold chainOperand
  split <;> simp [chainIndex_eq_some] <;> tauto

theorem ledOperand_eq_some {cfg : Config} {f : CmdFields} {arg0 : Word} {c : Fin 3} {l : LedFields} :
    ledOperand cfg f arg0 = some (c, l) ↔
      f.ch.toNat = c.val ∧ c.val < cfg.nChains.toNat ∧ f.a = 0 ∧ f.b = 0 ∧ f.rsv = 0 ∧
        arg0 &&& ~~~0x00007777#32 = 0 ∧ ledFields arg0 = l := by
  unfold ledOperand
  split <;> simp_all [Option.map_eq_some_iff, chainOperand_eq_some] <;> tauto

/-- WPCNT of a list that 32 bits can count (R74). -/
theorem countWord_of_lt {n : Nat} (h : n < 2 ^ 32) : countWord n = BitVec.ofNat 32 n := if_pos h

end Sys2Proof.Machine
end

