-- ==== Sys2Proof/Laws/Exec.lean ====
section
/-! SUPPORT. Said once: everything that the execution of an instruction can answer with, and everything that a step can
answer with. Invariants cite these two in place of unfolding exec and step. -/

namespace Sys2Proof.Machine

open Sys2Proof

/-- MOVE_START's effect with the mask `m` (R242). -/
def State.startMasked (s : State) (m : BitVec 2) : State :=
  if m.getLsbD 1 then (if m.getLsbD 0 then s.startArm 0 else s).startArm 1 else if m.getLsbD 0 then s.startArm 0 else s

/-- The next states that an instruction can have. -/
inductive ExecEffect (s : State) : Instr → State → Prop where
  | nop (f : CmdFields) : ExecEffect s (.nop f) s
  | badOperand (i : Instr) : (opField (encode i)).toNat < 0x80 → ExecEffect s i (s.raiseErr .badOperand)
  | queueFull (f : CmdFields) (j : Fin 8) : actOperand f = some j → s.acts[j].list.length = s.cfg.wpqDepth →
      ExecEffect s (.wpEnq f) (s.raiseErr .queueFull)
  | enqueue (f : CmdFields) (j : Fin 8) : actOperand f = some j → s.acts[j].list.length ≠ s.cfg.wpqDepth →
      ExecEffect s (.wpEnq f) (s.updAct j fun x => { x with list := insertWaypoint s.argWaypoint x.list })
  | clear (f : CmdFields) (j : Fin 8) : actOperand f = some j →
      ExecEffect s (.wpClear f) (s.updAct j fun x => { x with list := [] })
  | moveStart (f : CmdFields) (m : BitVec 2) : maskOperand f = some m → ExecEffect s (.moveStart f) (s.startMasked m)
  | moveQuery (f : CmdFields) (a : Fin 2) : armOperand f = some a →
      ExecEffect s (.moveQuery f) { s with result := (BitVec.ofBool s.sessions[a].active).setWidth 32 }
  | servoPos (f : CmdFields) (c : Fin 3) (k : Fin 4) (b : Byte) : servoPosOperand s.cfg f = some ((c, k), b) →
      ExecEffect s (.modServoPos f) (s.updChain c fun ch => ch.setPending k (clampPos b))
  | servoColor (f : CmdFields) (c : Fin 3) (k : Fin 4) (b : Byte) : servoColorOperand s.cfg f = some ((c, k), b) →
      ExecEffect s (.modServoColor f)
        (s.updChain c fun ch => if ch.slots[k].mtype = .servo then ch.setPending k b else ch)
  | servoReadout (f : CmdFields) (c : Fin 3) (k : Fin 4) : chainSlotOnlyOperand s.cfg f = some (c, k) →
      ExecEffect s (.modServoReadout f) (s.updChain c fun ch => ch.setPending k s.cfg.servoReadoutCode)
  | led (f : CmdFields) (c : Fin 3) (l : LedFields) : ledOperand s.cfg f s.arg0 = some (c, l) →
      ExecEffect s (.modLed f) (s.updChain c fun ch => { ch with ledPair0 := ledByte1 l, ledPair1 := ledByte2 l })
  | queryPos (f : CmdFields) (c : Fin 3) (k : Fin 4) : chainSlotOnlyOperand s.cfg f = some (c, k) →
      ExecEffect s (.modQueryPos f) { s with result := (s.chains[c].reportedPos k).setWidth 32 }
  | busInit (f : CmdFields) (c : Fin 3) : chainOperand s.cfg f = some c →
      ExecEffect s (.modBusInit f) (s.updChain c fun ch => Chain.resetWith ch.lineIn (s.t + s.cfg.tBit))
  | busTimer (ch : BitVec 2) (c : Fin 3) : chainIndex s.cfg ch = some c → s.BusDue c →
      ExecEffect s (.busTimer ch) (s.updChain c fun x => x.onTimer s.cfg s.t)
  | line (v : Bool) (ch : BitVec 2) (c : Fin 3) : chainIndex s.cfg ch = some c →
      ExecEffect s (.line v ch) (s.updChain c fun x => x.onLine s.cfg s.t v)
  | tick : s.TickDue → ExecEffect s .tick s.tick
  | reset : ExecEffect s .reset
      { State.resetAt s.cfg s.t with trace := s.trace, reads := s.reads, inputs := s.inputs, choices := s.choices }

/-- Everything that an instruction can answer with; before the first RESET only a RESET answers (R301). -/
theorem exec_next {i : Instr} {s s' : State} (h : exec i s = .next s') :
    ExecEffect s i s' ∧ (i = .reset ∨ s.started = true) := by
  have bad : ∀ j : Instr, (opField (encode j)).toNat < 0x80 → ExecEffect s j (s.raiseErr .badOperand) :=
    fun j => .badOperand j
  cases i with
  | nop f =>
    obtain ⟨hs, h⟩ := whenStarted_next h
    obtain rfl : s = s' := by simpa using h
    exact ⟨.nop f, .inr hs⟩
  | wpEnq f =>
    obtain ⟨hs, ⟨_, rfl⟩ | ⟨j, hj, rfl⟩⟩ := command_next h
    · exact ⟨bad _ (by rw [encode, opField_commandWord]; decide), .inr hs⟩
    · refine ⟨?_, .inr hs⟩
      split
      · exact .queueFull f j hj (by assumption)
      · exact .enqueue f j hj (by assumption)
  | wpClear f =>
    obtain ⟨hs, ⟨_, rfl⟩ | ⟨j, hj, rfl⟩⟩ := command_next h
    · exact ⟨bad _ (by rw [encode, opField_commandWord]; decide), .inr hs⟩
    · exact ⟨.clear f j hj, .inr hs⟩
  | moveStart f =>
    obtain ⟨hs, ⟨_, rfl⟩ | ⟨m, hm, rfl⟩⟩ := command_next h
    · exact ⟨bad _ (by rw [encode, opField_commandWord]; decide), .inr hs⟩
    · exact ⟨.moveStart f m hm, .inr hs⟩
  | moveQuery f =>
    obtain ⟨hs, ⟨_, rfl⟩ | ⟨a, ha, rfl⟩⟩ := command_next h
    · exact ⟨bad _ (by rw [encode, opField_commandWord]; decide), .inr hs⟩
    · exact ⟨.moveQuery f a ha, .inr hs⟩
  | modServoPos f =>
    obtain ⟨hs, ⟨_, rfl⟩ | ⟨⟨⟨c, k⟩, b⟩, hx, rfl⟩⟩ := command_next h
    · exact ⟨bad _ (by rw [encode, opField_commandWord]; decide), .inr hs⟩
    · exact ⟨.servoPos f c k b hx, .inr hs⟩
  | modServoColor f =>
    obtain ⟨hs, ⟨_, rfl⟩ | ⟨⟨⟨c, k⟩, b⟩, hx, rfl⟩⟩ := command_next h
    · exact ⟨bad _ (by rw [encode, opField_commandWord]; decide), .inr hs⟩
    · exact ⟨.servoColor f c k b hx, .inr hs⟩
  | modServoReadout f =>
    obtain ⟨hs, ⟨_, rfl⟩ | ⟨⟨c, k⟩, hx, rfl⟩⟩ := command_next h
    · exact ⟨bad _ (by rw [encode, opField_commandWord]; decide), .inr hs⟩
    · exact ⟨.servoReadout f c k hx, .inr hs⟩
  | modLed f =>
    obtain ⟨hs, ⟨_, rfl⟩ | ⟨⟨c, l⟩, hx, rfl⟩⟩ := command_next h
    · exact ⟨bad _ (by rw [encode, opField_commandWord]; decide), .inr hs⟩
    · exact ⟨.led f c l hx, .inr hs⟩
  | modQueryPos f =>
    obtain ⟨hs, ⟨_, rfl⟩ | ⟨⟨c, k⟩, hx, rfl⟩⟩ := command_next h
    · exact ⟨bad _ (by rw [encode, opField_commandWord]; decide), .inr hs⟩
    · exact ⟨.queryPos f c k hx, .inr hs⟩
  | modBusInit f =>
    obtain ⟨hs, ⟨_, rfl⟩ | ⟨c, hx, rfl⟩⟩ := command_next h
    · exact ⟨bad _ (by rw [encode, opField_commandWord]; decide), .inr hs⟩
    · exact ⟨.busInit f c hx, .inr hs⟩
  | busTimer ch =>
    obtain ⟨hs, c, hc, h⟩ := onChain_next h
    obtain ⟨ht, rfl⟩ := atDeadline_next h
    exact ⟨.busTimer ch c hc ⟨hs, (chainIndex_eq_some.1 hc).2, ht⟩, .inr hs⟩
  | line v ch =>
    obtain ⟨hs, c, hc, h⟩ := onChain_next h
    obtain rfl := Host.Outcome.next.inj h
    exact ⟨.line v ch c hc, .inr hs⟩
  | tick =>
    obtain ⟨hs, h⟩ := whenStarted_next h
    obtain ⟨ht, rfl⟩ := atDeadline_next h
    exact ⟨.tick ⟨hs, ht⟩, .inr hs⟩
  | reset =>
    obtain rfl := Host.Outcome.next.inj h
    exact ⟨.reset, .inl rfl⟩

theorem decodeCommand_ne_reset (w : Word) : decodeCommand w ≠ .ok .reset := by
  unfold decodeCommand
  simp only []
  repeat' split
  all_goals simp

/-- What a step does beside an instruction. -/
inductive StepEffect (s : State) : State → Prop where
  /-- An instruction, with the input it came from gone or the choice counted. -/
  | exec (i : Instr) (rest : List Input) (n : Nat) (s' : State) :
      exec i { s with inputs := rest, choices := n } = .next s' →
      (i = .reset → ∃ w, s.inputs = .event w :: rest ∧ decodeEvent w = .ok .reset) → StepEffect s s'
  /-- A refused write, or an OP that names no command. -/
  | flag (rest : List Input) (e : ErrFlag) : StepEffect s ({ s with inputs := rest }.raiseErr e)
  | args (rest : List Input) (a b c : Word) : StepEffect s { s with inputs := rest, arg0 := a, arg1 := b, arg2 := c }
  | clearErr (rest : List Input) (v : Word) : s.inputs = .write 0x14 4 v :: rest →
      StepEffect s { s with inputs := rest, err := errAfterWrite s.err v }
  | read (rest : List Input) (r : HostRead) : StepEffect s { s with inputs := rest, reads := s.reads ++ [r] }
  | advance (rest : List Input) (t' : Nat) : s.t < t' → (∀ d ∈ s.deadlines, t' ≤ d) →
      StepEffect s { s with inputs := rest, t := t' }

/-- What a host write can answer with (R72, R76): the command it executes, one flag, an argument register, ERR. -/
theorem hostWrite_next {s s' : State} {off : Byte} {size : Nat} {v : Word} (h : hostWrite s off size v = .next s') :
    (size = 4 ∧ off = 0x00 ∧ ∃ i, decodeCommand v = .ok i ∧ exec i s = .next s') ∨
    (∃ e, s' = s.raiseErr e) ∨
    (∃ a b c, s' = { s with arg0 := a, arg1 := b, arg2 := c }) ∨
    (size = 4 ∧ off = 0x14 ∧ s' = { s with err := errAfterWrite s.err v }) := by
  obtain ⟨_, h⟩ := whenStarted_next h
  split at h
  · rename_i hok
    have hsz : size = 4 := by simp [accessOk] at hok; exact hok.1
    split at h
    · rename_i hoff
      unfold commandWrite at h
      split at h
      · exact .inl ⟨hsz, hoff, _, by assumption, h⟩
      · exact .inr (.inl ⟨_, (Host.Outcome.next.inj h).symm⟩)
    · split at h
      · exact .inr (.inr (.inl ⟨v, s.arg1, s.arg2, (Host.Outcome.next.inj h).symm⟩))
      · split at h
        · exact .inr (.inr (.inl ⟨s.arg0, v, s.arg2, (Host.Outcome.next.inj h).symm⟩))
        · split at h
          · exact .inr (.inr (.inl ⟨s.arg0, s.arg1, v, (Host.Outcome.next.inj h).symm⟩))
          · split at h
            · rename_i hoff
              exact .inr (.inr (.inr ⟨hsz, hoff, (Host.Outcome.next.inj h).symm⟩))
            · exact .inr (.inl ⟨_, (Host.Outcome.next.inj h).symm⟩)
  · exact .inr (.inl ⟨_, (Host.Outcome.next.inj h).symm⟩)

theorem advanceTo_next {s s' : State} {t' : Nat} (h : advanceTo s t' = .next s') :
    s.started = true ∧ s.t < t' ∧ (∀ d ∈ s.deadlines, t' ≤ d) ∧ s' = { s with t := t' } := by
  obtain ⟨hs, h⟩ := whenStarted_next h
  split at h
  · cases h
  · split at h
    · rename_i h1 h2
      exact ⟨hs, by omega, by simpa [List.all_eq_true] using h2, by simpa using h.symm⟩
    · cases h

/-- A timed event that is due is BUS_TIMER of an existing chain at its deadline, or TICK at its own (R281). -/
theorem dueEvents_mem {s : State} {i : Instr} (h : i ∈ s.dueEvents) :
    (∃ c : Fin 3, i = busTimerOf c ∧ c.val < s.cfg.nChains.toNat ∧ s.t = s.chains[c].busDeadline) ∨
      (i = .tick ∧ s.t = s.nextTick) := by
  simp only [State.dueEvents, List.mem_append, List.mem_map, List.mem_filter, State.liveChains] at h
  obtain ⟨c, ⟨⟨_, hc⟩, hd⟩, rfl⟩ | h := h
  · exact .inl ⟨c, rfl, by simpa [State.hasChain] using hc, (by simpa using hd : _ = _).symm⟩
  · split at h
    · exact .inr ⟨by simpa using h, by rename_i h'; exact h'.symm⟩
    · simp at h

/-- With no input to come a step is an event that is due, or an advance of time where none is (R298). -/
theorem autonomousStep_next {s s' : State} (h : autonomousStep s = .next s') :
    (∃ i ∈ s.dueEvents, ∃ n, exec i { s with choices := n } = .next s') ∨
      (s.dueEvents = [] ∧ advanceTo s s.nextDeadline = .next s') := by
  unfold autonomousStep at h
  split at h
  · exact .inr ⟨by assumption, h⟩
  · rename_i e he
    exact .inl ⟨e, by simp [he], s.choices, h⟩
  · rename_i e es hne he
    refine .inl ⟨_, ?_, _, h⟩
    rw [he, List.getD_eq_getElem?_getD]
    have hl : Config.freeChoice s.choices % (e :: es).length < (e :: es).length := Nat.mod_lt _ (by simp)
    rw [List.getElem?_eq_getElem hl]
    exact List.getElem_mem hl

/-- Everything that a step can answer with. -/
theorem step_next {s s' : State} (h : step s = .next s') : StepEffect s s' := by
  unfold step nextStep at h
  split at h
  · rename_i hi
    obtain ⟨i, hm, n, h⟩ | ⟨_, h⟩ := autonomousStep_next h
    · refine .exec i [] n s' (by rw [← hi]; exact h) ?_
      rintro rfl
      obtain ⟨c, hc, _⟩ | ⟨hc, _⟩ := dueEvents_mem hm <;> simp [busTimerOf] at hc
    · obtain ⟨_, h1, h2, rfl⟩ := advanceTo_next h
      exact .advance s.inputs _ h1 h2
  · rename_i x rest hi
    cases x with
    | write off size v =>
      obtain ⟨rfl, hoff, i, hd, h⟩ | ⟨e, rfl⟩ | ⟨a, b, c, rfl⟩ | ⟨rfl, hoff, rfl⟩ := hostWrite_next h
      · refine .exec i rest s.choices s' h ?_
        rintro rfl
        exact absurd hd (decodeCommand_ne_reset v)
      · exact .flag rest e
      · exact .args rest a b c
      · exact .clearErr rest v (by rw [hi, hoff])
    | read off size =>
      obtain ⟨_, h⟩ := whenStarted_next h
      obtain rfl := Host.Outcome.next.inj h
      exact .read rest _
    | event w =>
      simp only [perform, eventStep] at h
      split at h
      · rename_i i hd
        refine .exec i rest s.choices s' h ?_
        rintro rfl
        exact ⟨w, hi, hd⟩
      · obtain ⟨_, h⟩ := whenStarted_next h
        cases h
    | advance t' =>
      obtain ⟨_, h1, h2, rfl⟩ := advanceTo_next h
      exact .advance rest t' h1 h2

end Sys2Proof.Machine
end

