-- ==== Sys2Proof/Laws/Motion.lean ====
section
/-! SUPPORT. The motion tick and the start of a session, said once: what each of their parts keeps, and that a tick treats
every actuator by itself (43_motion_scheduler.md R210, R219). -/

namespace Sys2Proof.Machine

open Sys2Proof

theorem foldl_keeps {α β : Type} {P : β → Prop} {f : β → α → β} (hf : ∀ b x, P b → P (f b x)) (l : List α) (b : β)
    (h : P b) : P (l.foldl f b) := by
  induction l generalizing b with
  | nil => exact h
  | cons x l ih => exact ih _ (hf _ _ h)

/-- What `out`, a flag and the retirement of a head keep, the step of an actuator keeps (R211, R214). -/
theorem stepActuator_keeps {P : State → Prop} (hout : ∀ s i v, P s → P (s.out i v))
    (herr : ∀ (s : State) i, P s → P (s.raiseErr (.windowErr i)))
    (hretire : ∀ (s : State) (i : Fin 8) (w : Waypoint) (ws : List Waypoint), s.acts[i].list = w :: ws → P s →
      P (s.updAct i fun x => { x with actual := w.target, list := x.list.tail })) :
    ∀ s a i, P s → P (s.stepActuator a i) := by
  intro s a i h
  unfold State.stepActuator
  split
  · exact h
  · rename_i w ws hl
    simp only []
    split
    · exact h
    · split
      · unfold State.completeHead
        simp only []
        have := hout _ i w.target (hretire s i w ws hl h)
        split
        · exact herr _ _ this
        · exact this
      · exact hout _ _ _ h

/-- What the count of time, the end of a session and the step of an actuator keep, a tick keeps (R210). -/
theorem tick_keeps {P : State → Prop} (hend : ∀ s a, P s → P (s.updSession a fun x => { x with active := false }))
    (hstep : ∀ s a i, P s → P (s.stepActuator a i)) (s : State)
    (h : P { s with now := s.now + 1, nextTick := s.nextTick + tTick }) : P s.tick := by
  have harm : ∀ s a, P s → P (s.tickArm a) := by
    intro s a h
    unfold State.tickArm
    split
    · split
      · exact hend _ _ h
      · exact foldl_keeps (fun b i hb => hstep b a i hb) _ _ h
    · exact h
  exact harm _ _ (harm _ _ h)

/-- What a snapshot and a session's new value keep, a start of sessions keeps (R242). -/
theorem startMasked_keeps {P : State → Prop} (hsnap : ∀ (s : State) i, P s → P (s.updAct i fun x => { x with actual := x.outReg }))
    (hsess : ∀ (s : State) a x, P s → P (s.updSession a fun _ => x)) (s : State) (m : BitVec 2) (h : P s) :
    P (s.startMasked m) := by
  have harm : ∀ s a, P s → P (s.startArm a) := by
    intro s a h
    unfold State.startArm
    exact hsess _ _ _ (foldl_keeps (fun b i hb => hsnap b i hb) _ _ h)
  unfold State.startMasked
  split
  · apply harm
    split
    · exact harm _ _ h
    · exact h
  · split
    · exact harm _ _ h
    · exact h

/-- A tick touches no chain (R219). -/
theorem State.tick_chains (s : State) : s.tick.chains = s.chains :=
  tick_keeps (P := fun x => x.chains = s.chains) (fun _ _ h => h)
    (stepActuator_keeps (fun _ _ _ h => h) (fun _ _ h => h) fun _ _ _ _ _ h => h) s rfl

theorem State.startMasked_chains (s : State) (m : BitVec 2) : (s.startMasked m).chains = s.chains :=
  startMasked_keeps (P := fun x => x.chains = s.chains) (fun _ _ h => h) (fun _ _ _ h => h) s m rfl

/-- The registers that a tick leaves alone, and the two that count time (R210, R219). -/
theorem State.tick_frame (s : State) :
    s.tick.cfg = s.cfg ∧ s.tick.started = s.started ∧ s.tick.t = s.t ∧ s.tick.now = s.now + 1 ∧
      s.tick.nextTick = s.nextTick + tTick ∧ s.tick.result = s.result ∧ s.tick.reads = s.reads ∧ s.tick.inputs = s.inputs :=
  tick_keeps
    (P := fun x => x.cfg = s.cfg ∧ x.started = s.started ∧ x.t = s.t ∧ x.now = s.now + 1 ∧
      x.nextTick = s.nextTick + tTick ∧ x.result = s.result ∧ x.reads = s.reads ∧ x.inputs = s.inputs)
    (fun _ _ h => h) (stepActuator_keeps (fun _ _ _ h => h) (fun _ _ h => h) fun _ _ _ _ _ h => h) s
    ⟨rfl, rfl, rfl, rfl, rfl, rfl, rfl, rfl⟩

/-- The registers that a start of sessions leaves alone (R242). -/
theorem State.startMasked_frame (s : State) (m : BitVec 2) :
    (s.startMasked m).cfg = s.cfg ∧ (s.startMasked m).started = s.started ∧ (s.startMasked m).t = s.t ∧
      (s.startMasked m).now = s.now ∧ (s.startMasked m).nextTick = s.nextTick ∧ (s.startMasked m).result = s.result ∧
      (s.startMasked m).err = s.err ∧ (s.startMasked m).trace = s.trace ∧ (s.startMasked m).reads = s.reads :=
  startMasked_keeps
    (P := fun x => x.cfg = s.cfg ∧ x.started = s.started ∧ x.t = s.t ∧ x.now = s.now ∧ x.nextTick = s.nextTick ∧
      x.result = s.result ∧ x.err = s.err ∧ x.trace = s.trace ∧ x.reads = s.reads)
    (fun _ _ h => h) (fun _ _ _ h => h) s m ⟨rfl, rfl, rfl, rfl, rfl, rfl, rfl, rfl, rfl⟩

/-! ### The chains play no part -/

theorem State.withChains_completeHead (s : State) (ch : Vector Chain 3) (i : Fin 8) (w : Waypoint) (d rem : Int) :
    (s.withChains ch).completeHead i w d rem = (s.completeHead i w d rem).withChains ch := by
  unfold State.completeHead
  by_cases h : d ≤ 0 ∧ rem ≠ 0
  · simp only [if_pos h]; rfl
  · simp only [if_neg h]; rfl

theorem State.withChains_stepActuator (s : State) (ch : Vector Chain 3) (a : Fin 2) (i : Fin 8) :
    (s.withChains ch).stepActuator a i = (s.stepActuator a i).withChains ch := by
  have ha : (s.withChains ch).acts = s.acts := rfl
  have he : (s.withChains ch).elapsed a = s.elapsed a := rfl
  unfold State.stepActuator
  rw [ha, he]
  cases s.acts[i].list with
  | nil => rfl
  | cons w ws =>
    simp only [State.withChains_completeHead]
    split
    · rfl
    · split
      · rfl
      · rfl

theorem State.withChains_foldl (l : List (Fin 8)) (s : State) (ch : Vector Chain 3) (a : Fin 2) :
    l.foldl (fun s i => s.stepActuator a i) (s.withChains ch) =
      (l.foldl (fun s i => s.stepActuator a i) s).withChains ch := by
  induction l generalizing s with
  | nil => rfl
  | cons i l ih => rw [List.foldl_cons, List.foldl_cons, State.withChains_stepActuator, ih]

theorem State.withChains_tickArm (s : State) (ch : Vector Chain 3) (a : Fin 2) :
    (s.withChains ch).tickArm a = (s.tickArm a).withChains ch := by
  have hs : (s.withChains ch).sessions = s.sessions := rfl
  have he : (s.withChains ch).armEmpty a = s.armEmpty a := rfl
  unfold State.tickArm
  rw [hs, he]
  split
  · split
    · rfl
    · exact State.withChains_foldl _ s ch a
  · rfl

/-- A tick does the same whatever the chains hold (R295). -/
theorem State.withChains_tick (s : State) (ch : Vector Chain 3) : (s.withChains ch).tick = s.tick.withChains ch := by
  unfold State.tick
  simp only []
  rw [← State.withChains_tickArm, ← State.withChains_tickArm]
  rfl

/-- A start of sessions does the same whatever the chains hold (R295). -/
theorem State.withChains_startMasked (s : State) (ch : Vector Chain 3) (m : BitVec 2) :
    (s.withChains ch).startMasked m = (s.startMasked m).withChains ch := by
  have harm : ∀ (s : State) (a : Fin 2), (s.withChains ch).startArm a = (s.startArm a).withChains ch := by
    intro s a
    match a with
    | 0 | 1 => rfl
  unfold State.startMasked
  split <;> split <;> simp only [harm]

/-! ### One actuator at a time -/

/-- What concerns one actuator: the instant, its arm's ticks, itself, its records, its flag. -/
structure ActView where
  t : Nat
  elapsed : Word
  act : Actuator
  records : List OutRecord
  flag : Bool

def State.view (s : State) (i : Fin 8) : ActView :=
  { t := s.t, elapsed := s.elapsed (armOf i), act := s.acts[i], records := s.trace.filter fun r => r.act == i
    flag := s.err.getLsbD (8 + i.val) }

theorem State.view_out (s : State) (i j : Fin 8) (v : Word) :
    (s.out j v).view i =
      if j = i then
        { s.view i with act := { s.acts[i] with outReg := v }, records := (s.view i).records ++ [OutRecord.mk s.t i v] }
      else s.view i := by
  have e : (s.out j v).view i =
      { s.view i with
        act := (s.out j v).acts[i]
        records := (s.trace ++ [OutRecord.mk s.t j v]).filter fun r => r.act == i } := rfl
  rw [e, State.out_getElem, List.filter_append]
  by_cases h : j = i
  · subst h
    simp [State.view]
  · simp [State.view, h]

theorem State.view_raise (s : State) (i j : Fin 8) :
    (s.raiseErr (.windowErr j)).view i = if j = i then { s.view i with flag := true } else s.view i := by
  have e : (s.raiseErr (.windowErr j)).view i =
      { s.view i with flag := (s.err ||| ErrFlag.mask (.windowErr j)).getLsbD (8 + i.val) } := rfl
  have hm : ∀ i j : Fin 8, (ErrFlag.mask (.windowErr j)).getLsbD (8 + i.val) = decide (j = i) := by decide
  rw [e, BitVec.getLsbD_or, hm]
  by_cases h : j = i
  · simp [h]
  · simp [h, State.view]

theorem State.view_updAct (s : State) (i j : Fin 8) (f : Actuator → Actuator) :
    (s.updAct j f).view i = if j = i then { s.view i with act := f s.acts[i] } else s.view i := by
  have e : (s.updAct j f).view i = { s.view i with act := (s.updAct j f).acts[i] } := rfl
  rw [e, State.updAct_getElem]
  by_cases h : j = i
  · subst h; simp
  · simp [h, State.view]

/-- The step of one actuator as a change of what concerns it (R211, R214, R215). -/
def ActView.step (i : Fin 8) (x : ActView) : ActView :=
  match x.act.list with
  | [] => x
  | w :: ws =>
      if x.elapsed.toNat < w.start.toNat then x
      else if w.stop.toNat ≤ x.elapsed.toNat then
        { x with
          act := { list := ws, actual := w.target, outReg := w.target }, records := x.records ++ [⟨x.t, i, w.target⟩]
          flag := x.flag || decide (w.stop.toNat ≤ w.start.toNat ∧ w.stop.toNat ≠ x.elapsed.toNat) }
      else
        let v := ramp x.act.actual w.target (w.stop.toNat - w.start.toNat) (w.stop.toNat - x.elapsed.toNat)
        { x with act := { x.act with outReg := v }, records := x.records ++ [⟨x.t, i, v⟩] }

theorem State.view_stepActuator_same (s : State) (i : Fin 8) :
    (s.stepActuator (armOf i) i).view i = (s.view i).step i := by
  unfold State.stepActuator ActView.step
  have ea : (s.view i).act = s.acts[i] := rfl
  have ee : (s.view i).elapsed = s.elapsed (armOf i) := rfl
  rw [ea, ee]
  split
  · rename_i hl
    rw [hl]
  · rename_i w ws hl
    rw [hl]
    simp only []
    split
    · rfl
    · have hr : (w.stop.toNat : Int) - (s.elapsed (armOf i)).toNat ≤ 0 ↔ w.stop.toNat ≤ (s.elapsed (armOf i)).toNat := by
        omega
      by_cases hle : w.stop.toNat ≤ (s.elapsed (armOf i)).toNat
      · rw [if_pos (hr.2 hle), if_pos hle]
        unfold State.completeHead
        simp only []
        have hc : ((w.stop.toNat : Int) - w.start.toNat ≤ 0 ∧ (w.stop.toNat : Int) - (s.elapsed (armOf i)).toNat ≠ 0) ↔
            (w.stop.toNat ≤ w.start.toNat ∧ w.stop.toNat ≠ (s.elapsed (armOf i)).toNat) := by
          omega
        by_cases hf : w.stop.toNat ≤ w.start.toNat ∧ w.stop.toNat ≠ (s.elapsed (armOf i)).toNat
        · rw [if_pos (hc.2 hf), State.view_raise, if_pos rfl, State.view_out, if_pos rfl, State.view_updAct, if_pos rfl,
            State.updAct_same, decide_eq_true hf, Bool.or_true, hl]
          rfl
        · rw [if_neg (fun h => hf (hc.1 h)), State.view_out, if_pos rfl, State.view_updAct, if_pos rfl, State.updAct_same,
            decide_eq_false hf, Bool.or_false, hl]
          rfl
      · rw [if_neg (fun h => hle (hr.1 h)), if_neg hle, State.view_out, if_pos rfl]
        simp only [hl]
        rfl

theorem State.view_stepActuator_other (s : State) {i j : Fin 8} (a : Fin 2) (h : j ≠ i) :
    (s.stepActuator a j).view i = s.view i := by
  unfold State.stepActuator
  split
  · rfl
  · simp only []
    split
    · rfl
    · split
      · unfold State.completeHead
        simp only []
        split
        · rw [State.view_raise, if_neg h, State.view_out, if_neg h, State.view_updAct, if_neg h]
        · rw [State.view_out, if_neg h, State.view_updAct, if_neg h]
      · rw [State.view_out, if_neg h]

theorem State.view_foldl (i : Fin 8) (l : List (Fin 8)) (hl : l.Nodup) (s : State) (a : Fin 2) (ha : i ∈ l → a = armOf i) :
    (l.foldl (fun s j => s.stepActuator a j) s).view i = if i ∈ l then (s.view i).step i else s.view i := by
  induction l generalizing s with
  | nil => simp
  | cons j l ih =>
    obtain ⟨hj, hl⟩ := List.nodup_cons.1 hl
    rw [List.foldl_cons, ih hl _ fun h => ha (List.mem_cons_of_mem _ h)]
    by_cases h : j = i
    · subst h
      rw [if_neg hj, if_pos List.mem_cons_self, ha List.mem_cons_self, State.view_stepActuator_same]
    · rw [State.view_stepActuator_other _ _ h]
      simp [Ne.symm h]

theorem mem_armActuators (i : Fin 8) (a : Fin 2) : i ∈ armActuators a ↔ a = armOf i := by
  revert i a; decide

theorem nodup_armActuators (a : Fin 2) : (armActuators a).Nodup := by
  revert a; decide

/-- One arm's part of a tick, for one actuator: its step if it is the active arm's, nothing otherwise (R210, R218). -/
theorem State.view_tickArm (s : State) (a : Fin 2) (i : Fin 8) :
    (s.tickArm a).view i = if a = armOf i ∧ s.sessions[a].active = true then (s.view i).step i else s.view i := by
  unfold State.tickArm
  by_cases hact : s.sessions[a].active = true
  · rw [if_pos hact]
    split
    · rename_i he
      have ev : (s.updSession a fun x => { x with active := false }).view i = s.view i := by
        have e : (s.updSession a fun x => { x with active := false }).view i =
            { s.view i with elapsed := s.now - (s.updSession a fun x => { x with active := false }).sessions[armOf i].ref } := rfl
        rw [e, State.updSession_getElem]
        by_cases h : a = armOf i
        · subst h; rw [if_pos rfl]; rfl
        · rw [if_neg h]; rfl
      rw [ev]
      split
      · rename_i h
        have : s.acts[i].list = [] := by
          have := List.all_eq_true.1 he i ((mem_armActuators i a).2 h.1)
          simpa using this
        have ea : (s.view i).act.list = [] := this
        unfold ActView.step
        rw [ea]
      · rfl
    · rw [State.view_foldl i _ (nodup_armActuators a) s a (mem_armActuators i a).1]
      by_cases ha : a = armOf i
      · rw [if_pos ((mem_armActuators i a).2 ha), if_pos ⟨ha, hact⟩]
      · rw [if_neg fun h => ha ((mem_armActuators i a).1 h), if_neg fun h => ha h.1]
  · rw [if_neg hact, if_neg fun h => hact h.2]

/-- The other arm's part of a tick leaves a session alone. -/
theorem State.tickArm_session_other (s : State) {a b : Fin 2} (h : a ≠ b) : (s.tickArm a).sessions[b] = s.sessions[b] := by
  unfold State.tickArm
  split
  · split
    · rw [State.updSession_other _ _ h]
    · exact foldl_keeps (P := fun x => x.sessions[b] = s.sessions[b])
        (fun x i hx => stepActuator_keeps (P := fun x => x.sessions[b] = s.sessions[b]) (fun _ _ _ h => h)
          (fun _ _ h => h) (fun _ _ _ _ _ h => h) x a i hx) _ _ rfl
  · rfl

/-- The tick, for one actuator: time counts, and then its step if its arm is active (R210, R219). -/
theorem State.view_tick (s : State) (i : Fin 8) :
    s.tick.view i =
      if s.sessions[armOf i].active = true then
        ({ s with now := s.now + 1, nextTick := s.nextTick + tTick }.view i).step i
      else { s with now := s.now + 1, nextTick := s.nextTick + tTick }.view i := by
  have key : ∀ s : State, ((s.tickArm 0).tickArm 1).view i =
      if s.sessions[armOf i].active = true then (s.view i).step i else s.view i := by
    intro s
    rw [State.view_tickArm, State.view_tickArm, State.tickArm_session_other s (by decide : (0 : Fin 2) ≠ 1)]
    have : armOf i = 0 ∨ armOf i = 1 := by revert i; decide
    obtain h | h := this <;> simp [h]
  exact key _

/-- A tick only appends to the trace, at its own instant (R292). -/
theorem State.tick_trace (s : State) : ∃ recs, s.tick.trace = s.trace ++ recs ∧ ∀ r ∈ recs, r.t = s.t := by
  refine (tick_keeps (P := fun x => x.t = s.t ∧ ∃ recs, x.trace = s.trace ++ recs ∧ ∀ r ∈ recs, r.t = s.t)
    (fun _ _ h => h) (stepActuator_keeps ?_ (fun _ _ h => h) fun _ _ _ _ _ h => h) s ⟨rfl, [], by simp⟩).2
  rintro x i v ⟨ht, recs, hr, hall⟩
  refine ⟨ht, recs ++ [⟨x.t, i, v⟩], by rw [State.out_trace, hr, List.append_assoc], fun r hm => ?_⟩
  obtain hm | hm := List.mem_append.1 hm
  · exact hall r hm
  · obtain rfl := List.mem_singleton.1 hm
    exact ht

theorem newRecords_of_append {s s' : State} {recs : List OutRecord} (h : s'.trace = s.trace ++ recs) (i : Fin 8) :
    newRecords s s' i = recs.filter fun r => r.act == i := by
  rw [newRecords, h, List.drop_left]

end Sys2Proof.Machine
end

