-- ==== Sys2Proof/Laws/PerInstr.lean ====
section
/-! SUPPORT. One fact for every instruction as syntax, one lemma per constructor: the low byte of its word is the OP or EV
code that 30_encoding.md R104 and R110 list for it. -/

namespace Sys2Proof.Laws.WordCarriesItsCode

open Sys2Proof

/-- The codes of R104 and R110. -/
def codeOf : Instr → Byte
  | .nop _ => 0x00
  | .wpEnq _ => 0x01
  | .wpClear _ => 0x02
  | .moveStart _ => 0x03
  | .moveQuery _ => 0x04
  | .modServoPos _ => 0x10
  | .modServoColor _ => 0x11
  | .modServoReadout _ => 0x12
  | .modLed _ => 0x13
  | .modQueryPos _ => 0x14
  | .modBusInit _ => 0x15
  | .busTimer _ => 0x80
  | .line _ _ => 0x81
  | .tick => 0x82
  | .reset => 0x83

def Statement (i : Instr) : Prop := opField (encode i) = codeOf i

theorem nop (f : CmdFields) : Statement (.nop f) := opField_commandWord _ _
theorem wpEnq (f : CmdFields) : Statement (.wpEnq f) := opField_commandWord _ _
theorem wpClear (f : CmdFields) : Statement (.wpClear f) := opField_commandWord _ _
theorem moveStart (f : CmdFields) : Statement (.moveStart f) := opField_commandWord _ _
theorem moveQuery (f : CmdFields) : Statement (.moveQuery f) := opField_commandWord _ _
theorem modServoPos (f : CmdFields) : Statement (.modServoPos f) := opField_commandWord _ _
theorem modServoColor (f : CmdFields) : Statement (.modServoColor f) := opField_commandWord _ _
theorem modServoReadout (f : CmdFields) : Statement (.modServoReadout f) := opField_commandWord _ _
theorem modLed (f : CmdFields) : Statement (.modLed f) := opField_commandWord _ _
theorem modQueryPos (f : CmdFields) : Statement (.modQueryPos f) := opField_commandWord _ _
theorem modBusInit (f : CmdFields) : Statement (.modBusInit f) := opField_commandWord _ _
theorem busTimer (ch : BitVec 2) : Statement (.busTimer ch) := opField_eventWord _ _ _
theorem line (lv : Bool) (ch : BitVec 2) : Statement (.line lv ch) := opField_eventWord _ _ _
theorem tick : Statement .tick := opField_eventWord _ _ _
theorem reset : Statement .reset := opField_eventWord _ _ _

end Sys2Proof.Laws.WordCarriesItsCode
end

