-- ==== Sys2Proof/Machine/Statements.lean ====
section
/-! DEFINITION. What the statements of a program stand for as inputs of the block: the single statements of 30_encoding.md
R112 and the pseudo-instructions of R113. The block itself sees only the inputs. -/

namespace Sys2Proof.Machine

open Sys2Proof

/-- `WR off, v` (R112). -/
def Input.wr (off : Byte) (v : Word) : Input := .write off 4 v

/-- `RD off` (R112). -/
def Input.rd (off : Byte) : Input := .read off 4

/-- A mnemonic with named fields, the others 0: a write of its word to CMD (R112, R100). -/
def Input.command (mk : CmdFields → Instr) (a : Byte := 0) (b : Byte := 0) (ch : BitVec 2 := 0) : Input :=
  .wr 0x00 (encode (mk { a := a, b := b, ch := ch, rsv := 0 }))

/-- `@BUS_TIMER`, `@LINE`, `@TICK`, `@RESET`: the word of an event (R112, R110). -/
def Input.ofEvent (i : Instr) : Input := .event (encode i)

/-- `WP_ADD act=i, start=s, stop=p, target=g` (R113). -/
def wpAdd (act : Byte) (start stop target : Word) : List Input :=
  [.wr 0x04 start, .wr 0x08 stop, .wr 0x0C target, .command .wpEnq act]

/-- `LED_SET ch=c, r=R, g=G, b=B, f=F` (R113). -/
def ledSet (ch : BitVec 2) (r g b f : BitVec 3) : List Input :=
  [.wr 0x04 (f.setWidth 32 <<< 12 ||| b.setWidth 32 <<< 8 ||| g.setWidth 32 <<< 4 ||| r.setWidth 32),
    .command .modLed (ch := ch)]

/-- `SERVO_BLUE ch=c, slot=s` (R113). -/
def servoBlue (ch : BitVec 2) (slot : Byte) : List Input := [.command .modServoColor slot 0xF4 ch]

/-- `MOVE_BOTH` (R113). -/
def moveBoth : List Input := [.command .moveStart 3]

/-- `CLR_ERR` (R113). -/
def clrErr : List Input := [.wr 0x14 0xFFFFFFFF]

/-- `SERVO_POS? ch=c, slot=s` (R113). -/
def servoPosQuery (ch : BitVec 2) (slot : Byte) : List Input := [.command .modQueryPos slot (ch := ch), .rd 0x10]

/-- `MOVING? arm=a` (R113). -/
def movingQuery (arm : Byte) : List Input := [.command .moveQuery arm, .rd 0x10]

end Sys2Proof.Machine
end

