-- ==== Sys2Proof/Tests/Slice0.lean ====
section
/-! SUPPORT. Tests: ill-formed terms, words written out from the encodings, single steps with the results of
95_test_vectors.md, and one witness for the hypotheses of each obligation that has any. -/

namespace Sys2Proof.Tests

open Sys2Proof Sys2Proof.Machine

/-! ## Small states -/

/-- The next state of one input, if it has one. -/
def after (s : State) (x : Input) : Option State :=
  match step { s with inputs := [x] } with
  | .next s' => some s'
  | _ => none

/-- The next state of one command word. -/
def afterCmd (s : State) (w : Word) : Option State := after s (.write 0x00 4 w)

/-- A block with three chains, right after a RESET at 0. -/
def three : State := State.resetAt { Config.reference with nChains := .three } 0

/-- `three` with chain `c` in a phase, its timer due. -/
def busIn (c : Fin 3) (ph : Phase) (f : Chain → Chain) : State :=
  three.updChain c fun ch => { f ch with phase := ph, busDeadline := 0 }

/-- Before a tick at time 1000 that is the `e`-th of the sessions: both arms active, actuator `i` holding a list. -/
def beforeTick (i : Fin 8) (l : List Waypoint) (e : Nat) : State :=
  { three with
    t := 1000, nextTick := 1000, now := BitVec.ofNat 32 (e - 1), sessions := #v[⟨true, 0⟩, ⟨true, 0⟩]
    acts := three.acts.set i { list := l, actual := 0, outReg := 0 } }

/-- `beforeTick`, and then the tick. -/
def ticked (i : Fin 8) (l : List Waypoint) (e : Nat) : Option State := (beforeTick i l e).after .tick

/-- A state before the first RESET. -/
def unborn : State := { State.reset with started := false }

/-- A full list of sixteen waypoints. -/
def fullList : List Waypoint := List.replicate 16 ⟨3, 4, 5⟩

/-- A servo slot. -/
def servo : Slot := { mtype := .servo, pending := 0x80, lastInput := 0x00, ledPhase := false }

/-- A Led slot in phase 0 that shows byte 0 of the reset pair. -/
def led : Slot := { mtype := .led, pending := 0x00, lastInput := 0x00, ledPhase := false }

/-! ## Well-formedness: a term that fails each check of R102 and R104 -/

theorem test_wf_wpEnq_act : WellFormed Config.reference (.wpEnq ⟨8, 0, 0, 0⟩) = false := by decide
theorem test_wf_wpEnq_b : WellFormed Config.reference (.wpEnq ⟨0, 1, 0, 0⟩) = false := by decide
theorem test_wf_wpEnq_ch : WellFormed Config.reference (.wpEnq ⟨0, 0, 1, 0⟩) = false := by decide
theorem test_wf_wpEnq_rsv : WellFormed Config.reference (.wpEnq ⟨0, 0, 0, 1⟩) = false := by decide
theorem test_wf_wpClear_act : WellFormed Config.reference (.wpClear ⟨8, 0, 0, 0⟩) = false := by decide
theorem test_wf_moveStart_mask : WellFormed Config.reference (.moveStart ⟨4, 0, 0, 0⟩) = false := by decide
theorem test_wf_moveStart_b : WellFormed Config.reference (.moveStart ⟨3, 1, 0, 0⟩) = false := by decide
theorem test_wf_moveQuery_arm : WellFormed Config.reference (.moveQuery ⟨2, 0, 0, 0⟩) = false := by decide
theorem test_wf_moveQuery_ch : WellFormed Config.reference (.moveQuery ⟨1, 0, 1, 0⟩) = false := by decide
theorem test_wf_servoPos_slot : WellFormed Config.reference (.modServoPos ⟨4, 0x80, 0, 0⟩) = false := by decide
theorem test_wf_servoPos_pos : WellFormed Config.reference (.modServoPos ⟨0, 0xF0, 0, 0⟩) = false := by decide
theorem test_wf_servoPos_chain : WellFormed Config.reference (.modServoPos ⟨0, 0x80, 1, 0⟩) = false := by decide
theorem test_wf_servoPos_rsv : WellFormed Config.reference (.modServoPos ⟨0, 0x80, 0, 1⟩) = false := by decide
theorem test_wf_servoColor_low : WellFormed Config.reference (.modServoColor ⟨1, 0xEF, 0, 0⟩) = false := by decide
theorem test_wf_servoColor_high : WellFormed Config.reference (.modServoColor ⟨1, 0xF8, 0, 0⟩) = false := by decide
theorem test_wf_servoReadout_b : WellFormed Config.reference (.modServoReadout ⟨0, 1, 0, 0⟩) = false := by decide
theorem test_wf_queryPos_slot : WellFormed Config.reference (.modQueryPos ⟨4, 0, 0, 0⟩) = false := by decide
theorem test_wf_led_a : WellFormed Config.reference (.modLed ⟨1, 0, 0, 0⟩) = false := by decide
theorem test_wf_busInit_a : WellFormed Config.reference (.modBusInit ⟨1, 0, 0, 0⟩) = false := by decide
theorem test_wf_busTimer_chain : WellFormed Config.reference (.busTimer 1) = false := by decide
theorem test_wf_line_chain : WellFormed Config.reference (.line true 1) = false := by decide
theorem test_wf_chain_three : WellFormed three.cfg (.busTimer 2) = true ∧ WellFormed three.cfg (.busTimer 3) = false := by
  decide

/-! ## Words, bit by bit: RSV (6), CH (2), B (8), A (8), OP (8); and for events 0 (6), CH (2), 0 (15), LV (1), EV (8) -/

theorem test_word_nop : decode 0b111111_11_11111111_11111111_00000000#32 = .ok (.nop ⟨0xFF, 0xFF, 3, 0x3F⟩) := rfl
theorem test_word_wpEnq : decode 0b000000_00_00000000_00000101_00000001#32 = .ok (.wpEnq ⟨5, 0, 0, 0⟩) := rfl
theorem test_word_wpClear : decode 0b000000_00_00000000_00000111_00000010#32 = .ok (.wpClear ⟨7, 0, 0, 0⟩) := rfl
theorem test_word_moveStart : decode 0b000000_00_00000000_00000010_00000011#32 = .ok (.moveStart ⟨2, 0, 0, 0⟩) := rfl
theorem test_word_moveQuery : decode 0b000001_00_00000000_00000001_00000100#32 = .ok (.moveQuery ⟨1, 0, 0, 1⟩) := rfl
theorem test_word_servoPos : decode 0b000000_10_10000000_00000011_00010000#32 = .ok (.modServoPos ⟨3, 0x80, 2, 0⟩) := rfl
theorem test_word_servoColor : decode 0b000000_01_11110100_00000001_00010001#32 = .ok (.modServoColor ⟨1, 0xF4, 1, 0⟩) := rfl
theorem test_word_servoReadout : decode 0b000000_00_00000000_00000011_00010010#32 = .ok (.modServoReadout ⟨3, 0, 0, 0⟩) := rfl
theorem test_word_led : decode 0b000000_10_00000000_00000000_00010011#32 = .ok (.modLed ⟨0, 0, 2, 0⟩) := rfl
theorem test_word_queryPos : decode 0b000000_00_00000000_00000010_00010100#32 = .ok (.modQueryPos ⟨2, 0, 0, 0⟩) := rfl
theorem test_word_busInit : decode 0b000000_01_00000000_00000000_00010101#32 = .ok (.modBusInit ⟨0, 0, 1, 0⟩) := rfl
theorem test_word_busTimer : decode 0b000000_10_000000000000000_0_10000000#32 = .ok (.busTimer 2) := rfl
theorem test_word_line : decode 0b000000_01_000000000000000_1_10000001#32 = .ok (.line true 1) := rfl
theorem test_word_tick : decode 0b000000_00_000000000000000_0_10000010#32 = .ok .tick := rfl
theorem test_word_reset : decode 0b000000_00_000000000000000_0_10000011#32 = .ok .reset := rfl

/-- An event word with LV, CH or a zero field set is no event (R111). -/
theorem test_word_not_event :
    decode 0x00000180 = .error (.invalidEvent 0x00000180) ∧ decode 0x01000082 = .error (.invalidEvent 0x01000082) ∧
      decode 0x00000281 = .error (.invalidEvent 0x00000281) ∧ decode 0x04000083 = .error (.invalidEvent 0x04000083) :=
  ⟨rfl, rfl, rfl, rfl⟩

/-- Three bytes are no instruction. -/
theorem test_bytes_truncated : decodeBytes [0x00, 0x00, 0x00] = .error .truncated := rfl

/-- The words of the table's rows, as the table numbers their bits. -/
theorem test_table_words :
    decodeTableWord 8 0x01 = some (.wpEnq ⟨0, 0, 0, 0⟩) ∧ decodeTableWord 32 0x00800010 = some (.modServoPos ⟨0, 0x80, 0, 0⟩) ∧
      decodeTableWord 32 0x00000181 = some (.line true 0) ∧ decodeTableWord 32 0x00000083 = some .reset ∧
      decodeTableWord 32 0x00000005 = none := by
  decide

/-- The words of the pseudo-instructions of R113: `i << 8 | 0x01`, `c << 24 | 0x13` after ARG0, 0x00000303. -/
theorem test_pseudo_words :
    wpAdd 3 5 5 9 = [.write 0x04 4 5, .write 0x08 4 5, .write 0x0C 4 9, .write 0x00 4 0x00000301] ∧
      ledSet 2 1 2 3 4 = [.write 0x04 4 0x00004321, .write 0x00 4 0x02000013] ∧ moveBoth = [.write 0x00 4 0x00000303] ∧
      servoBlue 0 1 = [.write 0x00 4 0x00F40111] ∧ servoPosQuery 0 2 = [.write 0x00 4 0x00000214, .read 0x10 4] := by
  decide

/-! ## From State.reset, a word put before the inputs is the very next event -/

theorem test_fetch_commands :
    ∀ w ∈ [0x00, 0x01, 0x02, 0x03, 0x04, 0x10, 0x12, 0x13, 0x14, 0x15], ∃ s', step (State.reset.withFetchWord 32 w) = .next s' ∧
      s'.err = 0 := by
  simp only [List.mem_cons, List.not_mem_nil, or_false, forall_eq_or_imp, forall_eq]
  exact ⟨⟨_, rfl, rfl⟩, ⟨_, rfl, rfl⟩, ⟨_, rfl, rfl⟩, ⟨_, rfl, rfl⟩, ⟨_, rfl, rfl⟩, ⟨_, rfl, rfl⟩, ⟨_, rfl, rfl⟩, ⟨_, rfl, rfl⟩,
    ⟨_, rfl, rfl⟩, ⟨_, rfl, rfl⟩⟩

/-- The servo colour row's bare word has B = 0, below 0xF0: BAD_OPERAND (R102). -/
theorem test_fetch_servoColor : step (State.reset.withFetchWord 32 0x11) = .next { State.reset with err := 2 } := rfl

theorem test_fetch_events :
    ∀ w ∈ [0x80, 0x81, 0x82, 0x83], ∃ s', step (State.reset.withFetchWord 32 w) = .next s' ∧ s'.err = 0 := by
  simp only [List.mem_cons, List.not_mem_nil, or_false, forall_eq_or_imp, forall_eq]
  exact ⟨⟨_, rfl, rfl⟩, ⟨_, rfl, rfl⟩, ⟨_, rfl, rfl⟩, ⟨_, rfl, rfl⟩⟩

/-! ## Single steps, with the results of 95_test_vectors.md -/

-- 2.1 Command decode and operand checks.
theorem test_nop : afterCmd State.reset 0xFFFFFF00 = some State.reset := by decide
theorem test_illegal_op : afterCmd State.reset 0x0000007F = some { State.reset with err := 1 } := by decide
theorem test_event_word_in_cmd : afterCmd State.reset 0x00000082 = some { State.reset with err := 1 } := by decide
theorem test_errors_accumulate :
    afterCmd { State.reset with err := 1 } 0x00000801 = some { State.reset with err := 3 } := by decide
theorem test_moveStart_mask4 : afterCmd State.reset 0x00000403 = some { State.reset with err := 2 } := by decide

-- 2.2 Register window.
theorem test_window_after_reset :
    State.reset.regRead 0x80 4 = 0x1C000000 ∧ State.reset.regRead 0x90 4 = 0x00004000 ∧ State.reset.regRead 0xAC 4 = 0x000000FE ∧
      State.reset.regRead 0x84 4 = 0 ∧ three.regRead 0x88 4 = 0x1C000000 := by
  decide
theorem test_window_bytes :
    { State.reset with arg0 := 0x12345678 }.windowByte 0x04 = 0x78 ∧
      { State.reset with arg0 := 0x12345678 }.windowByte 0x07 = 0x12 := by
  decide
theorem test_write_readonly : after State.reset (.write 0x10 4 5) = some { State.reset with err := 8 } := by decide
theorem test_write_short : after State.reset (.write 0x04 2 5) = some { State.reset with err := 8 } := by decide
theorem test_err_w1c :
    after { State.reset with err := 0x105 } (.write 0x14 4 0x0000000F) = some { State.reset with err := 0x100 } := by decide
theorem test_err_outside_mask :
    after { State.reset with err := 0x105 } (.write 0x14 4 0xFFFF00F0) = some { State.reset with err := 0x105 } := by decide
theorem test_wpcnt :
    { State.reset with acts := State.reset.acts.set 7 { list := fullList, actual := 0, outReg := 0 } }.regRead 0x7C 4 = 16 ∧
      countWord 0xFFFFFFFF = 0xFFFFFFFF := by
  decide
theorem test_read_misaligned : State.reset.regRead 0x02 4 = 0 := by decide

-- 2.3 Frame sending.
theorem test_first_start :
    (({ State.reset with t := 417 }.after (busTimerOf 0)).map fun s : State => s.regRead 0x80 4) = some 0x14FF0101 := by decide
theorem test_waveform_FE :
    drivenLevels 2 11 (busIn 2 .start fun ch => { ch with byteIndex := 1 }) =
      [false, false, true, true, true, true, true, true, true, true, true] := by
  decide
theorem test_checksums :
    checksumByte 0x0A 0 = 0xA0 ∧ checksumByte 0xF8 3 = 0x73 ∧ checksumByte 0xEE 0 = 0xC0 ∧ checksumByte 0x7A 1 = 0x11 ∧
      checksumByte 0x0F 0 = 0xF0 ∧ checksumByte 0xFC 0 = 0xB0 := by
  decide
theorem test_stop2_last_byte :
    ((busIn 0 .stop2 fun ch => { ch with byteIndex := 5 }).after (busTimerOf 0)).map
        (fun s => (s.chains[0].phase, s.chains[0].byteIndex)) = some (.turn, 5) := by
  decide

-- 2.4 Turnaround, response and timeout.
theorem test_turn :
    ((busIn 0 .turn fun ch => { ch with byteIndex := 5, cs := 0x70 }).after (busTimerOf 0)).map
        (fun s => (s.regRead 0x80 4, s.regRead 0x90 4, s.chains[0].busDeadline)) =
      some (0x180001ED, 0x00704000, 3000) := by
  decide
theorem test_edge_then_sample :
    ((({ State.reset with t := 200 }.updChain 0 fun ch =>
        { ch with phase := .await, lineDir := .input, edgeArmed := true, timeoutFlag := true, lineIn := false, bitMask := 1
                  busDeadline := 3000 }).after (lineOf 0 true)).bind fun s => s.callback 0).map
        (fun s : State => (s.t, s.chains[0].shiftReg, s.chains[0].bitMask, s.chains[0].busDeadline)) =
      some (408, 0x01, 0x02, 1908) := by
  decide

-- 2.5 Complete and interpretation.
theorem test_complete_absent :
    ((busIn 0 .complete fun ch => { ch with slotIndex := 3, slots := #v[servo, servo, led, servo], shiftReg := 0x00 }).after
        (busTimerOf 0)).map (fun s => (s.chains[0].slots, s.chains[0].slotIndex)) =
      some (#v[servo, servo, led, Slot.resetValue], 0) := by
  decide
theorem test_complete_led :
    ((busIn 1 .complete fun ch => { ch with slotIndex := 2, slots := #v[servo, servo, led, led], shiftReg := 0xFE }).after
        (busTimerOf 1)).map (fun s => s.chains[1].slots[2]) =
      some { mtype := .led, pending := 0x40, lastInput := 0xFE, ledPhase := true } := by
  decide

-- 2.6 Module commands.
theorem test_servoPos_clamp :
    (afterCmd State.reset 0x00EF0010).map (fun s => s.chains[0].slots[0].pending) = some 0xE8 ∧
      (afterCmd State.reset 0x00000210).map (fun s => s.chains[0].slots[2].pending) = some 0x18 := by
  decide
theorem test_servoColor_unknown : afterCmd State.reset 0x00F70111 = some State.reset := by decide
theorem test_servoColor_servo :
    (afterCmd (State.reset.updChain 0 fun ch => { ch with slots := #v[servo, led, led, led] }) 0x00F00011).map
        (fun s => s.chains[0].slots[0].pending) = some 0xF0 := by
  decide
theorem test_servoReadout :
    (afterCmd { State.reset with cfg := { Config.reference with servoReadoutCode := 0x55 } } 0x00000112).map
        (fun s => s.chains[0].slots[1].pending) = some 0x55 := by
  decide
theorem test_led_pair :
    (afterCmd { State.reset with arg0 := 0x00004321 } 0x00000013).map (fun s => (s.chains[0].ledPair0, s.chains[0].ledPair1)) =
      some (0x11, 0x63) := by
  decide
theorem test_led_bad_arg : afterCmd { State.reset with arg0 := 8 } 0x00000013 = some { State.reset with arg0 := 8, err := 2 } := by
  decide
theorem test_queryPos :
    (afterCmd
        (State.reset.updChain 0 fun ch =>
          { ch with slots := #v[servo, servo, { servo with lastInput := 0x6A }, servo], lpValid := true, lpSlot := 2 })
        0x00000214).map (fun s => s.result) = some 0x6A ∧
      (afterCmd { State.reset with result := 7 } 0x00000114).map (fun s => s.result) = some 0 := by
  decide
theorem test_busInit :
    ((busIn 0 .data fun ch => { ch with byteIndex := 3, slots := #v[servo, servo, servo, servo] }).after
        (.modBusInit ⟨0, 0, 0, 0⟩)).map (fun s => (s.regRead 0x80 4, s.regRead 0x90 4, s.regRead 0xA8 4, s.chains[0].busDeadline)) =
      some (0x1C000000, 0x00004000, 0x000000FE, 417) := by
  decide

-- 2.7 Motion tick and ramp.
theorem test_ramp :
    ramp 0 200 100 50 = 100 ∧ ramp 200 0 100 67 = 134 ∧ ramp 0 10 3 1 = 6 ∧ ramp 10 0 3 2 = 7 ∧ ramp 100 103 4 3 = 100 ∧
      ramp 0 0xFFFFFFFF 0xFFFFFFFF 0xFFFFFFFE = 1 ∧ ramp 0xFFFFFFFF 0 0xFFFFFFFF 0xFFFFFFFE = 0xFFFFFFFE := by
  decide
theorem test_tick_ramp :
    (ticked 0 [⟨0, 3, 10⟩] 2).map (fun s => (s.now, s.nextTick, s.trace, s.err)) = some (2, 2000, [⟨1000, 0, 6⟩], 0) := by decide
theorem test_tick_retires :
    (ticked 4 [⟨0, 100, 200⟩, ⟨50, 80, 50⟩] 100).map (fun s => (s.acts[4], s.trace, s.err)) =
      some (⟨[⟨50, 80, 50⟩], 200, 200⟩, [⟨1000, 4, 200⟩], 0) := by
  decide
theorem test_tick_window_err :
    (ticked 0 [⟨4, 2, 9⟩] 4).map (fun s => (s.acts[0].outReg, s.err)) = some (9, 0x100) ∧
      (ticked 0 [⟨5, 5, 9⟩] 5).map (fun s => (s.acts[0].outReg, s.err)) = some (9, 0) := by
  decide
theorem test_tick_session_end :
    (ticked 0 [] 1).map (fun s => (s.sessions, s.trace)) = some (#v[⟨false, 0⟩, ⟨false, 0⟩], []) := by decide

-- 2.8 Motion commands.
theorem test_wpEnq_equal_start :
    (afterCmd
        { State.reset with
          arg0 := 10, arg1 := 30, arg2 := 7, acts := State.reset.acts.set 0 { list := [⟨5, 6, 1⟩, ⟨10, 20, 5⟩], actual := 0, outReg := 0 } }
        0x00000001).map (fun s => s.acts[0].list) =
      some [⟨5, 6, 1⟩, ⟨10, 30, 7⟩, ⟨10, 20, 5⟩] := by
  decide
theorem test_wpEnq_full :
    (afterCmd { State.reset with acts := State.reset.acts.set 1 { list := fullList, actual := 0, outReg := 0 } } 0x00000101).map
        (fun s => (s.err, s.acts[1].list.length)) =
      some (4, 16) := by
  decide
theorem test_wpClear :
    (afterCmd { State.reset with acts := State.reset.acts.set 7 { list := fullList, actual := 0, outReg := 100 } } 0x00000702).map
        (fun s => s.acts[7]) =
      some { list := [], actual := 0, outReg := 100 } := by
  decide
theorem test_moveStart :
    (afterCmd { State.reset with now := 500, acts := #v[⟨[], 0, 5⟩, ⟨[], 0, 6⟩, ⟨[], 0, 7⟩, ⟨[], 0, 8⟩, ⟨[], 0, 9⟩, ⟨[], 0, 9⟩, ⟨[], 0, 9⟩, ⟨[], 0, 9⟩] }
        0x00000103).map (fun s => (s.acts, s.sessions)) =
      some (#v[⟨[], 5, 5⟩, ⟨[], 6, 6⟩, ⟨[], 7, 7⟩, ⟨[], 8, 8⟩, ⟨[], 0, 9⟩, ⟨[], 0, 9⟩, ⟨[], 0, 9⟩, ⟨[], 0, 9⟩], #v[⟨true, 500⟩, ⟨false, 0⟩]) := by
  decide
theorem test_moveStart_none : afterCmd State.reset 0x00000003 = some State.reset := by decide
theorem test_moveQuery :
    (afterCmd (beforeTick 0 [] 1) 0x00000104).map (fun s => s.result) = some 1 ∧
      (afterCmd { State.reset with result := 1 } 0x00000104).map (fun s => s.result) = some 0 := by
  decide

-- 2.9 Reset.
theorem test_reset :
    ({ beforeTick 0 [⟨0, 100, 200⟩] 50 with t := 5000, err := 0x0B }.after .reset).map
        (fun s : State => (s.err, s.acts[0], s.chains[0].busDeadline, s.nextTick, s.trace)) =
      some (0, ⟨[], 0, 0⟩, 5417, 6000, []) := by
  decide
theorem test_before_reset : step { unborn with inputs := [.event 0x00000081] } = .refused .beforeReset := rfl

/-! ## Witnesses: a state and operands that meet the hypotheses of each obligation, clause by clause -/

theorem reset_inv : State.reset.Inv := by decide

theorem witness_DecodedWordIsTheEncoding : decode 0x00800010 = .ok (.modServoPos ⟨0, 0x80, 0, 0⟩) := rfl

theorem witness_StepRunsTheDecodedWord :
    ({ State.reset with inputs := [.write 0x00 4 0x00000501] }.inputs = [.write 0x00 4 0x00000501] ∧
      decodeCommand 0x00000501 = .ok (.wpEnq ⟨5, 0, 0, 0⟩)) ∧
    ({ unborn with inputs := [.event 0x00000083] }.inputs = [.event 0x00000083] ∧ decodeEvent 0x00000083 = .ok .reset) :=
  ⟨⟨rfl, rfl⟩, ⟨rfl, rfl⟩⟩

theorem witness_IllegalOpSetsIllegalCmdOnly :
    ∀ n ∈ ([0x05, 0x0F, 0x16, 0x80, 0xFF] : List Nat),
      { State.reset with inputs := [.write 0x00 4 (BitVec.ofNat 32 n)] }.started = true ∧
      ((0x05 ≤ (BitVec.ofNat 32 n).toNat % 256 ∧ (BitVec.ofNat 32 n).toNat % 256 ≤ 0x0F) ∨
        0x16 ≤ (BitVec.ofNat 32 n).toNat % 256) := by
  decide

theorem witness_FailedCheckSetsBadOperandOnly :
    ((opField (encode (.wpEnq ⟨8, 0, 0, 0⟩))).toNat < 0x80 ∧ State.reset.started = true ∧
      WellFormed State.reset.cfg (.wpEnq ⟨8, 0, 0, 0⟩) = false) ∧
    { State.reset with arg0 := 0x8 }.arg0 &&& ~~~0x00007777#32 ≠ 0 := by
  decide

theorem witness_WhatIsNoEventIsRefused :
    (unborn.started = false ∧ (Instr.tick ≠ .reset)) ∧ decodeEvent 0x00000082 = .ok .tick ∧
    { unborn with inputs := [.event 0x00000082] }.inputs = [.event 0x00000082] ∧ unborn.inputs = [] ∧
    State.reset.cfg.nChains.toNat ≤ (1 : BitVec 2).toNat ∧ three.cfg.nChains.toNat ≤ (3 : BitVec 2).toNat ∧
    decodeEvent 0x00000084 = .error (.invalidEvent 0x00000084) :=
  ⟨by decide, rfl, rfl, rfl, by decide, by decide, rfl⟩

theorem witness_TimedEventsOnlyAtTheirDeadlines :
    three.started = true ∧ (2 : Fin 3).val < three.cfg.nChains.toNat ∧ three.t ≠ three.chains[(2 : Fin 3)].busDeadline ∧
      three.t ≠ three.nextTick := by
  decide

/-- The clauses: to the present instant, to the earliest deadline (417), one past it, past the tick, and, in a state that no run
reaches, past a deadline that lies before the present (log 6). -/
theorem witness_TimeAdvancesPastNoDeadline :
    three.started = true ∧ 0 ≤ three.t ∧
      (three.t < 417 ∧ 417 ≤ three.nextTick ∧
        ∀ c : Fin 3, c.val < three.cfg.nChains.toNat → 417 ≤ three.chains[c].busDeadline) ∧
      (three.t < 418 ∧ ∃ c : Fin 3, c.val < three.cfg.nChains.toNat ∧ three.chains[c].busDeadline < 418) ∧
      (three.t < 1001 ∧ three.nextTick < 1001) ∧
      ({ three with t := 2000 }.t < 2001 ∧ { three with t := 2000 }.nextTick < 2001) := by
  decide

/-- The three cases: a bus timer is due, the tick is due, nothing is due. -/
theorem witness_BlockGoesOnByItself :
    ((busIn 2 .start id).started = true ∧ (busIn 2 .start id).TimeInv ∧ (busIn 2 .start id).inputs = [] ∧ (busIn 2 .start id).BusDue 2) ∧
    ({ State.reset with nextTick := 0 }.TimeInv ∧ { State.reset with nextTick := 0 }.TickDue) ∧
    (State.reset.TimeInv ∧ ¬State.reset.TickDue ∧ ¬State.reset.BusDue 0) := by
  decide

theorem witness_Commands_started : State.reset.started = true ∧ three.started = true := by decide

/-- Lowest and highest actuator, a list with room and a full one, and the first operand out of range. -/
theorem witness_WpEnqInsertsInOrder :
    ((⟨0, 0, 0, 0⟩ : CmdFields).a.toNat = (0 : Fin 8).val ∧ (⟨7, 0, 0, 0⟩ : CmdFields).a.toNat = (7 : Fin 8).val) ∧
    State.reset.acts[(7 : Fin 8)].list.length ≠ State.reset.cfg.wpqDepth ∧
    fullList.length = State.reset.cfg.wpqDepth ∧ 7 < (⟨8, 0, 0, 0⟩ : CmdFields).a.toNat := by
  decide

theorem witness_WpClearEmptiesOneList :
    (⟨7, 0, 0, 0⟩ : CmdFields).a.toNat = (7 : Fin 8).val ∧ 7 < (⟨8, 0, 0, 0⟩ : CmdFields).a.toNat := by decide

theorem witness_MoveStartStartsTheMaskedArms :
    (⟨3, 0, 0, 0⟩ : CmdFields).a.toNat ≤ 3 ∧ 3 < (⟨4, 0, 0, 0⟩ : CmdFields).a.toNat := by decide

theorem witness_MoveQueryReadsTheActiveFlag :
    (⟨1, 0, 0, 0⟩ : CmdFields).a.toNat = (1 : Fin 2).val ∧ 1 < (⟨2, 0, 0, 0⟩ : CmdFields).a.toNat := by decide

theorem witness_ServoPosClampsIntoPending :
    (⟨3, 0xEF, 2, 0⟩ : CmdFields).ch.toNat = (2 : Fin 3).val ∧ (2 : Fin 3).val < three.cfg.nChains.toNat ∧
      (⟨3, 0xEF, 2, 0⟩ : CmdFields).a.toNat = (3 : Fin 4).val ∧ (⟨3, 0xEF, 2, 0⟩ : CmdFields).b.toNat ≤ 0xEF ∧
      0xEF < (⟨3, 0xF0, 2, 0⟩ : CmdFields).b.toNat := by
  decide

theorem witness_ServoColorOnServosOnly :
    (⟨3, 0xF7, 2, 0⟩ : CmdFields).ch.toNat = (2 : Fin 3).val ∧ (2 : Fin 3).val < three.cfg.nChains.toNat ∧
      (⟨3, 0xF7, 2, 0⟩ : CmdFields).a.toNat = (3 : Fin 4).val ∧ 0xF0 ≤ (⟨3, 0xF0, 2, 0⟩ : CmdFields).b.toNat ∧
      (⟨3, 0xF7, 2, 0⟩ : CmdFields).b.toNat ≤ 0xF7 ∧
      (busIn 2 .start fun ch => { ch with slots := #v[led, led, led, servo] }).chains[(2 : Fin 3)].slots[(3 : Fin 4)].mtype = .servo ∧
      three.chains[(2 : Fin 3)].slots[(3 : Fin 4)].mtype ≠ .servo ∧ (⟨3, 0xEF, 2, 0⟩ : CmdFields).b.toNat < 0xF0 ∧
      0xF7 < (⟨3, 0xF8, 2, 0⟩ : CmdFields).b.toNat := by
  decide

/-- For MOD_SERVO_READOUT and MOD_QUERY_POS: the last slot of the last chain, and the first slot number out of range. -/
theorem witness_ServoReadoutSetsTheReadoutCode_and_QueryPosReadsTheLastPolledServo :
    (⟨3, 0, 2, 0⟩ : CmdFields).ch.toNat = (2 : Fin 3).val ∧ (2 : Fin 3).val < three.cfg.nChains.toNat ∧
      (⟨3, 0, 2, 0⟩ : CmdFields).a.toNat = (3 : Fin 4).val ∧ 3 < (⟨4, 0, 2, 0⟩ : CmdFields).a.toNat := by
  decide

/-- For MOD_LED and MOD_BUS_INIT: the last chain, all four fields of ARG0 at 7, a stray bit, and a chain that does not exist. -/
theorem witness_LedCommandWritesThePair_and_BusInitResetsOneChain :
    (⟨0, 0, 2, 0⟩ : CmdFields).ch.toNat = (2 : Fin 3).val ∧ (2 : Fin 3).val < three.cfg.nChains.toNat ∧
      0x00007777#32 &&& ~~~0x00007777#32 = 0 ∧ 0x00008000#32 &&& ~~~0x00007777#32 ≠ 0 ∧
      three.cfg.nChains.toNat ≤ (⟨0, 0, 3, 0⟩ : CmdFields).ch.toNat := by
  decide

/-- The first byte, the first and last data byte, and the checksum byte. -/
theorem witness_StartLatchesTheFrameByte :
    (three.updChain 2 fun ch => { ch with busDeadline := 0 }).BusDue 2 ∧
    (busIn 2 .start id).chains[(2 : Fin 3)].byteIndex.val = 0 ∧
    (busIn 2 .start fun ch => { ch with byteIndex := 4 }).BusDue 2 ∧
    (busIn 2 .start fun ch => { ch with byteIndex := 4 }).chains[(2 : Fin 3)].byteIndex.val = (3 : Fin 4).val + 1 ∧
    (busIn 2 .start fun ch => { ch with byteIndex := 5 }).chains[(2 : Fin 3)].byteIndex.val = 5 := by
  decide

theorem witness_DataDrivesTheMaskedBit :
    (busIn 0 .data fun ch => { ch with bitMask := 0x80 }).BusDue 0 ∧
      (busIn 0 .data fun ch => { ch with bitMask := 0x80 }).chains[(0 : Fin 3)].phase = .data ∧
      (busIn 0 .data fun ch => { ch with bitMask := 0x80 }).chains[(0 : Fin 3)].bitMask.toNat = 2 ^ (7 : Fin 8).val := by
  decide

theorem witness_FirstStopBitDrivesHigh : (busIn 1 .stop1 id).BusDue 1 ∧ (busIn 1 .stop1 id).chains[(1 : Fin 3)].phase = .stop1 := by
  decide

theorem witness_SecondStopBitLeadsOn :
    (busIn 1 .stop2 fun ch => { ch with byteIndex := 4 }).BusDue 1 ∧
      (5 : Fin 6).val = (busIn 1 .stop2 fun ch => { ch with byteIndex := 4 }).chains[(1 : Fin 3)].byteIndex.val + 1 ∧
      (busIn 1 .stop2 fun ch => { ch with byteIndex := 5 }).chains[(1 : Fin 3)].byteIndex.val = 5 := by
  decide

theorem witness_TurnOpensTheFirstWindow : (busIn 2 .turn id).BusDue 2 ∧ (busIn 2 .turn id).chains[(2 : Fin 3)].phase = .turn := by
  decide

theorem witness_TimeoutEndsTheCycle :
    (busIn 2 .await fun ch => { ch with timeoutFlag := true, slotIndex := 3 }).BusDue 2 ∧
      (busIn 2 .await fun ch => { ch with timeoutFlag := true, slotIndex := 3 }).chains[(2 : Fin 3)].timeoutFlag = true ∧
      (0 : Fin 4).val =
        ((busIn 2 .await fun ch => { ch with timeoutFlag := true, slotIndex := 3 }).chains[(2 : Fin 3)].slotIndex.val + 1) % 4 := by
  decide

/-- The last bit, high, and the seventh, low. -/
theorem witness_SampleReadsOneResponseBit :
    ((busIn 2 .await fun ch => { ch with bitMask := 0x80 }).BusDue 2 ∧
      (busIn 2 .await fun ch => { ch with bitMask := 0x80 }).chains[(2 : Fin 3)].timeoutFlag = false ∧
      (busIn 2 .await fun ch => { ch with bitMask := 0x80 }).chains[(2 : Fin 3)].lineIn = true) ∧
    (busIn 2 .await fun ch => { ch with bitMask := 0x40, lineIn := false }).chains[(2 : Fin 3)].bitMask ≠ 0x80 ∧
    (busIn 2 .await fun ch => { ch with bitMask := 0x40, lineIn := false }).chains[(2 : Fin 3)].lineIn = false := by
  decide

theorem witness_CompleteInterpretsTheResponse :
    (busIn 0 .complete fun ch => { ch with slotIndex := 3, shiftReg := 0xFE }).BusDue 0 ∧
      (busIn 0 .complete fun ch => { ch with slotIndex := 3, shiftReg := 0xFE }).chains[(0 : Fin 3)].phase = .complete ∧
      (0 : Fin 4).val = ((3 : Fin 4).val + 1) % 4 := by
  decide

/-- An armed detector that sees a rising edge, and one that is not armed. -/
theorem witness_LineChangeAndEdgeAction :
    ((busIn 2 .await fun ch => { ch with edgeArmed := true, lineIn := false }).started = true ∧
      (2 : Fin 3).val < (busIn 2 .await fun ch => { ch with edgeArmed := true, lineIn := false }).cfg.nChains.toNat ∧
      (busIn 2 .await fun ch => { ch with edgeArmed := true, lineIn := false }).chains[(2 : Fin 3)].lineIn = false ∧
      (busIn 2 .await fun ch => { ch with edgeArmed := true, lineIn := false }).chains[(2 : Fin 3)].edgeArmed = true) ∧
    ¬(three.chains[(2 : Fin 3)].lineIn = false ∧ true = true ∧ three.chains[(2 : Fin 3)].edgeArmed = true) := by
  decide

/-- Two states that differ outside chain 2, in its BUS_TIMER and its LINE. -/
theorem witness_ChainsAreIndependent :
    (busIn 2 .start id).chains[(2 : Fin 3)] = { busIn 2 .start id with err := 1, chains := (busIn 2 .start id).chains.set 0 (three.chains[(0 : Fin 3)].drive false) }.chains[(2 : Fin 3)] ∧
      (∃ s', (busIn 2 .start id).after (busTimerOf 2) = some s') ∧ ∃ s', (busIn 2 .start id).after (lineOf 2 false) = some s' :=
  ⟨by decide, ⟨_, rfl⟩, ⟨_, rfl⟩⟩

theorem witness_OneByteOnTheWire_and_OneFrameOnTheWire :
    three.started = true ∧ (2 : Fin 3).val < three.cfg.nChains.toNat ∧ three.chains[(2 : Fin 3)].phase = .start ∧
      three.chains[(2 : Fin 3)].byteIndex = 0 ∧ three.chains[(2 : Fin 3)].frameByte = 0xFF ∧
      0xF8 = (three.chains[(2 : Fin 3)].slots[0].pending.toNat + three.chains[(2 : Fin 3)].slots[1].pending.toNat
        + three.chains[(2 : Fin 3)].slots[2].pending.toNat + three.chains[(2 : Fin 3)].slots[3].pending.toNat) % 256 := by
  decide

theorem witness_OneReplyIsReceived :
    (busIn 2 .await fun ch => { ch with edgeArmed := true, bitMask := 1 }).started = true ∧
      (busIn 2 .await fun ch => { ch with edgeArmed := true, bitMask := 1 }).chains[(2 : Fin 3)].edgeArmed = true ∧
      (busIn 2 .await fun ch => { ch with edgeArmed := true, bitMask := 1 }).chains[(2 : Fin 3)].bitMask = 0x01 ∧
      (busIn 2 .await fun ch => { ch with edgeArmed := true, bitMask := 1 }).chains[(2 : Fin 3)].shiftReg = 0x00 := by
  decide

theorem witness_LedSlotAlternates :
    (∀ r ∈ ([0x37, 0xFE] : List Byte), r ≠ 0x00) ∧
      { three.chains[(0 : Fin 3)] with slots := #v[led, led, led, led] }.slots[(3 : Fin 4)].mtype = .led ∧
      { three.chains[(0 : Fin 3)] with slots := #v[led, led, led, led] }.slots[(3 : Fin 4)].pending =
        three.chains[(0 : Fin 3)].ledPair0 := by
  decide

/-- The motion statements' states: a tick that is due; an inactive arm; a head before, at the start of, at the last tick of and
past its window; a window of no length, on time and late. -/
theorem witness_TickCountsTimeAndTouchesMotionOnly_and_SessionEndsOnEmptyLists : (beforeTick 7 [⟨0, 3, 10⟩] 1).TickDue := by decide

theorem witness_InactiveArmIsNotEvaluated :
    { beforeTick 7 [⟨0, 3, 10⟩] 1 with sessions := #v[⟨true, 0⟩, ⟨false, 0⟩] }.TickDue ∧ (7 : Fin 8).val / 4 = (1 : Fin 2).val ∧
      { beforeTick 7 [⟨0, 3, 10⟩] 1 with sessions := #v[⟨true, 0⟩, ⟨false, 0⟩] }.sessions[(1 : Fin 2)].active = false := by
  decide

theorem witness_TickInterpolatesTheHead :
    (beforeTick 7 [⟨10, 20, 50⟩] 9).TickDue ∧ (7 : Fin 8).val / 4 = (1 : Fin 2).val ∧
      (beforeTick 7 [⟨10, 20, 50⟩] 9).sessions[(1 : Fin 2)].active = true ∧
      (beforeTick 7 [⟨10, 20, 50⟩] 9).acts[(7 : Fin 8)].list = [⟨10, 20, 50⟩] ∧
      9 = ((beforeTick 7 [⟨10, 20, 50⟩] 9).now + 1 - (beforeTick 7 [⟨10, 20, 50⟩] 9).sessions[(1 : Fin 2)].ref).toNat ∧
      10 = ((beforeTick 7 [⟨10, 20, 50⟩] 10).now + 1 - (beforeTick 7 [⟨10, 20, 50⟩] 10).sessions[(1 : Fin 2)].ref).toNat ∧
      19 = ((beforeTick 7 [⟨10, 20, 50⟩] 19).now + 1 - (beforeTick 7 [⟨10, 20, 50⟩] 19).sessions[(1 : Fin 2)].ref).toNat := by
  decide

theorem witness_TickRetiresTheHead :
    (beforeTick 0 [⟨4, 2, 9⟩] 4).TickDue ∧
      4 = ((beforeTick 0 [⟨4, 2, 9⟩] 4).now + 1 - (beforeTick 0 [⟨4, 2, 9⟩] 4).sessions[(0 : Fin 2)].ref).toNat ∧
      (⟨4, 2, 9⟩ : Waypoint).start.toNat ≤ 4 ∧ (⟨4, 2, 9⟩ : Waypoint).stop.toNat ≤ 4 ∧
      20 = ((beforeTick 0 [⟨10, 20, 50⟩] 20).now + 1 - (beforeTick 0 [⟨10, 20, 50⟩] 20).sessions[(0 : Fin 2)].ref).toNat := by
  decide

theorem witness_RampIsMonotoneAndBounded :
    (1 : Int) ≤ 1 ∧ (1 : Int) ≤ 100 ∧ (100 : Int) ≤ 100 ∧ (0 : Word).toNat ≤ (200 : Word).toNat := by decide

theorem witness_WaypointReachesItsTarget :
    (beforeTick 7 [⟨0, 100, 200⟩] 1).started = true ∧ (7 : Fin 8).val / 4 = (1 : Fin 2).val ∧
      (beforeTick 7 [⟨0, 100, 200⟩] 1).sessions[(1 : Fin 2)].ref = (beforeTick 7 [⟨0, 100, 200⟩] 1).now ∧
      (beforeTick 7 [⟨0, 100, 200⟩] 1).acts[(7 : Fin 8)].list = [⟨0, 100, 200⟩] ∧
      (⟨0, 100, 200⟩ : Waypoint).start.toNat < (⟨0, 100, 200⟩ : Waypoint).stop.toNat := by
  decide

theorem witness_ReadsFollowTheRegisterMap : State.reset.cfg.nChains.toNat ≤ (1 : Fin 3).val := by decide

theorem witness_ReadbackWordsHoldTheirFields : (2 : Fin 3).val < three.cfg.nChains.toNat := by decide

theorem witness_ReadsHaveNoSideEffect :
    { State.reset with inputs := [.read 0x02 4] }.inputs = [.read 0x02 4] ∧ (0x02 : Byte).toNat % 4 ≠ 0 := by decide

/-- A malformed write, the writable registers, and offsets that take no write: read-only, and the last one. -/
theorem witness_WritesFollowTheRegisterMap :
    { State.reset with inputs := [.write 0x07 4 5] }.inputs = [.write 0x07 4 5] ∧ (0x07 : Byte).toNat % 4 ≠ 0 ∧
      (0x10 : Byte).toNat % 4 = 0 ∧ (0x10 : Byte).toNat ∉ [0x00, 0x04, 0x08, 0x0C, 0x14] ∧
      (0xFC : Byte).toNat % 4 = 0 ∧ (0xFC : Byte).toNat ∉ [0x00, 0x04, 0x08, 0x0C, 0x14] := by
  decide

theorem witness_WindowIsLittleEndian : 63 < 64 ∧ 3 < 4 := by decide

/-- The step invariants: a state in the middle of a reply, with a list, a flag and a record, meets them and steps on. -/
def midway : State :=
  { busIn 2 .await (fun ch => { ch with lineDir := .input, edgeArmed := true, timeoutFlag := true, bitMask := 0x04, lineIn := false }) with
    err := 0x105, trace := [⟨0, 3, 7⟩], inputs := [.event 0x02000181]
    acts := three.acts.set 3 { list := [⟨1, 2, 3⟩, ⟨1, 5, 6⟩], actual := 0, outReg := 7 } }

theorem witness_StepKeepsTheInvariants : midway.Inv ∧ ∃ s', step midway = .next s' := ⟨by decide, ⟨_, rfl⟩⟩

theorem witness_ResetMeetsTheInvariants : three.cfg.wf ∧ midway.cfg.wf ∧ midway.TraceInv ∧ midway.trace ≠ [] := by decide

/-- The three ways of a flag: it stays, it is cleared by a write of 1, it is cleared by a RESET. -/
theorem witness_ErrBitsAreSticky :
    (∃ s', step midway = .next s' ∧ midway.err.getLsbD 8 = true ∧ s'.err.getLsbD 8 = true) ∧
    (∃ s', step { midway with inputs := [.write 0x14 4 0x100] } = .next s' ∧ s'.err.getLsbD 8 = false) ∧
    (∃ s', step { midway with inputs := [.event 0x83] } = .next s' ∧ s'.err.getLsbD 8 = false) :=
  ⟨⟨_, rfl, by decide, by decide⟩, ⟨_, rfl, by decide⟩, ⟨_, rfl, by decide⟩⟩

/-- The two-run clauses: a tick and the chains it does not read, a BUS_TIMER and the motion state it does not read. -/
theorem witness_BusAndMotionShareNothing :
    (motionInstr .tick = true ∧ (beforeTick 0 [⟨0, 1, 5⟩] 1).chains ≠ midway.chains ∧
      ∃ s', exec .tick (beforeTick 0 [⟨0, 1, 5⟩] 1) = .next s') ∧
    (busInstr (busTimerOf 2) = true ∧ midway.acts ≠ (beforeTick 0 [⟨0, 1, 5⟩] 1).acts ∧
      ∃ s', exec (busTimerOf 2) midway = .next s') :=
  ⟨⟨rfl, by decide, ⟨_, rfl⟩⟩, ⟨rfl, by decide, ⟨_, rfl⟩⟩⟩

/-- Each antecedent: a result that changes, a level, a cached position, an output with its record. -/
theorem witness_WhoMayChangeWhat_and_BusAndMotionShareNothing :
    (∃ s', exec (.moveQuery ⟨0, 0, 0, 0⟩) (beforeTick 0 [] 1) = .next s' ∧ s'.result ≠ (beforeTick 0 [] 1).result) ∧
    (∃ s', exec (lineOf 2 false) three = .next s' ∧ s'.chains[(2 : Fin 3)].lineIn ≠ three.chains[(2 : Fin 3)].lineIn) ∧
    (∃ s', exec .tick (beforeTick 0 [⟨0, 1, 5⟩] 1) = .next s' ∧
      s'.acts[(0 : Fin 8)].actual ≠ (beforeTick 0 [⟨0, 1, 5⟩] 1).acts[(0 : Fin 8)].actual ∧
      s'.acts[(0 : Fin 8)].outReg ≠ (beforeTick 0 [⟨0, 1, 5⟩] 1).acts[(0 : Fin 8)].outReg ∧
      s'.trace ≠ (beforeTick 0 [⟨0, 1, 5⟩] 1).trace) :=
  ⟨⟨_, rfl, by decide⟩, ⟨_, rfl, by decide⟩, ⟨_, rfl, by decide, by decide, by decide⟩⟩

theorem witness_EdgeAtTheEndOfItsWindow :
    { midway with inputs := [] }.cfg.wf ∧ midway.BusDue 2 ∧ midway.chains[(2 : Fin 3)].phase = .await ∧
      midway.chains[(2 : Fin 3)].timeoutFlag = true ∧ midway.chains[(2 : Fin 3)].edgeArmed = true ∧
      midway.chains[(2 : Fin 3)].lineIn = false := by
  decide

end Sys2Proof.Tests
end

/-! PROOFS. What no step takes back: the parameters, the time, the output trace, the record of reads and the start of a run. -/

namespace Sys2Proof.Machine

open Sys2Proof

/-- An instruction takes no time (R280) and reads nothing for the host. Only a tick appends to the trace (R292). -/
theorem ExecEffect.keeps_history {s s' : State} {i : Instr} (h : ExecEffect s i s') :
    s'.cfg = s.cfg ∧ s'.t = s.t ∧ s.trace <+: s'.trace ∧ s'.reads = s.reads ∧
      (s.started = true → s'.started = true) := by
  cases h with
  | moveStart f m =>
    obtain ⟨hcfg, hstarted, ht, _, _, _, _, htrace, hreads⟩ := s.startMasked_frame m
    exact ⟨hcfg, ht, htrace ▸ List.prefix_rfl, hreads, hstarted.trans⟩
  | tick =>
    obtain ⟨hcfg, hstarted, ht, _, _, _, hreads, _⟩ := s.tick_frame
    obtain ⟨recs, htrace, _⟩ := s.tick_trace
    exact ⟨hcfg, ht, ⟨recs, htrace.symm⟩, hreads, hstarted.trans⟩
  | reset => exact ⟨rfl, rfl, List.prefix_rfl, rfl, fun _ => rfl⟩
  | nop | badOperand | queueFull | enqueue | clear | moveQuery | servoPos | servoColor | servoReadout | led | queryPos
  | busInit | busTimer | line => exact ⟨rfl, rfl, List.prefix_rfl, rfl, id⟩

/-- An advance raises the time, a host read appends to the reads, and the host's writes touch neither. -/
theorem StepEffect.keeps_history {s s' : State} (h : StepEffect s s') :
    s'.cfg = s.cfg ∧ s.t ≤ s'.t ∧ s.trace <+: s'.trace ∧ s.reads <+: s'.reads ∧
      (s.started = true → s'.started = true) := by
  cases h with
  | exec i rest n _ h _ =>
    obtain ⟨hcfg, ht, htrace, hreads, hstarted⟩ := (exec_next h).1.keeps_history
    exact ⟨hcfg, ht.ge, htrace, hreads ▸ List.prefix_rfl, hstarted⟩
  | flag | args | clearErr => exact ⟨rfl, le_rfl, List.prefix_rfl, List.prefix_rfl, id⟩
  | read rest r => exact ⟨rfl, le_rfl, List.prefix_rfl, List.prefix_append _ _, id⟩
  | advance rest t' hlater _ => exact ⟨rfl, hlater.le, List.prefix_rfl, List.prefix_rfl, id⟩

/-- Settles O56: everything a step can answer with (`step_next`) keeps the history. -/
theorem stepKeepsParametersAndHistory : Obligations.StepKeepsParametersAndHistory :=
  fun _ _ h => (step_next h).keeps_history

end Sys2Proof.Machine

/-! PROOFS. One component at a time: what an update of one chain or one actuator keeps of every chain or actuator. -/

namespace Sys2Proof.Machine

open Sys2Proof

/-- What an update of chain `c` keeps of chain `c`, it keeps of every chain. -/
theorem State.updChain_keeps {P : Chain → Prop} {s : State} {c : Fin 3} {f : Chain → Chain}
    (hf : P s.chains[c] → P (f s.chains[c])) (c' : Fin 3) (h : P s.chains[c']) : P (s.updChain c f).chains[c'] := by
  by_cases hc : c = c'
  · subst hc
    exact s.updChain_same c f ▸ hf h
  · exact s.updChain_other f hc ▸ h

/-- What an update of actuator `i` keeps of actuator `i`, it keeps of every actuator. -/
theorem State.updAct_keeps {P : Actuator → Prop} {s : State} {i : Fin 8} {f : Actuator → Actuator}
    (hf : P s.acts[i] → P (f s.acts[i])) (j : Fin 8) (h : P s.acts[j]) : P (s.updAct i f).acts[j] := by
  by_cases hi : i = j
  · subst hi
    exact s.updAct_same i f ▸ hf h
  · exact s.updAct_other f hi ▸ h

end Sys2Proof.Machine

/-! PROOFS. The registers of a chain (10_state.md R41): what makes the invariant in each phase, that every handler of the
bus keeps it, and so every step. -/

namespace Sys2Proof.Machine

open Sys2Proof

/-! ### What makes the invariant, phase by phase -/

/-- The detector is on in phase AWAIT alone (R27). -/
theorem Chain.BusInv.edgeArmed_eq_false {ch : Chain} (h : ch.BusInv) (hp : ch.phase ≠ .await) : ch.edgeArmed = false :=
  Bool.eq_false_iff.2 fun he => hp (h.1 he).1

theorem Chain.BusInv.of_sending {ch : Chain} (he : ch.edgeArmed = false) (hd : ch.lineDir = .output)
    (hp : ch.phase ≠ .await ∧ ch.phase ≠ .complete) (hm : ch.phase = .data → OneHot ch.bitMask) : ch.BusInv :=
  ⟨by simp [he], hm, fun h => absurd h hp.1, fun _ => hd, fun h => absurd h hp.2⟩

/-- At the first byte of a frame the line may still be the input that the reply came on. -/
theorem Chain.BusInv.of_frame_start {ch : Chain} (he : ch.edgeArmed = false) (hp : ch.phase = .start)
    (hb : ch.byteIndex = 0) : ch.BusInv := by
  simp [Chain.BusInv, he, hp, hb]

theorem Chain.BusInv.of_await {ch : Chain} (hp : ch.phase = .await) (hd : ch.lineDir = .input) (hm : OneHot ch.bitMask)
    (ht : ch.edgeArmed = true → ch.timeoutFlag = true) : ch.BusInv :=
  ⟨fun he => ⟨hp, hd, ht he⟩, by simp [hp], fun _ => ⟨hd, hm⟩, by simp [hp], by simp [hp]⟩

theorem Chain.BusInv.of_complete {ch : Chain} (hp : ch.phase = .complete) (hd : ch.lineDir = .input)
    (he : ch.edgeArmed = false) : ch.BusInv := by
  simp [Chain.BusInv, hp, hd, he]

theorem oneHot_one : OneHot 0x01 := by decide

theorem oneHot_shiftLeft {m : Byte} (h : OneHot m) (hm : m ≠ 0x80) : OneHot (m <<< 1) := by
  revert m; decide

theorem Chain.resetWith_busInv (v : Bool) (d : Nat) : (Chain.resetWith v d).BusInv := .of_frame_start rfl rfl rfl

/-! ### The handlers -/

theorem Chain.BusInv.onStart {ch : Chain} (h : ch.BusInv) (hp : ch.phase = .start) (cfg : Config) (t : Nat) :
    (ch.onStart cfg t).BusInv :=
  .of_sending (h.edgeArmed_eq_false (by simp [hp])) rfl (by simp [Chain.onStart]) fun _ => oneHot_one

/-- Every bit but the last leaves a bit to send, and after the last the mask is not looked at (R134). -/
theorem Chain.BusInv.onData {ch : Chain} (h : ch.BusInv) (hp : ch.phase = .data) (cfg : Config) (t : Nat) :
    (ch.onData cfg t).BusInv := by
  have he := h.edgeArmed_eq_false (by simp [hp])
  obtain ⟨-, hdata, -, hout, -⟩ := h
  have hd := hout (.inl hp)
  by_cases hm : ch.bitMask = 0x80#8
  · exact .of_sending he hd (by simp [Chain.onData, hm]) (by simp [Chain.onData, hm])
  · exact .of_sending he hd (by simp [Chain.onData, hm, hp]) fun _ => oneHot_shiftLeft (hdata hp) hm

theorem Chain.BusInv.onStop1 {ch : Chain} (h : ch.BusInv) (hp : ch.phase = .stop1) (cfg : Config) (t : Nat) :
    (ch.onStop1 cfg t).BusInv := by
  have he := h.edgeArmed_eq_false (by simp [hp])
  obtain ⟨-, -, -, hout, -⟩ := h
  exact .of_sending he (hout (.inr (.inl hp))) (by simp [Chain.onStop1]) (by simp [Chain.onStop1])

theorem Chain.BusInv.onStop2 {ch : Chain} (h : ch.BusInv) (hp : ch.phase = .stop2) (cfg : Config) (t : Nat) :
    (ch.onStop2 cfg t).BusInv := by
  have he := h.edgeArmed_eq_false (by simp [hp])
  obtain ⟨-, -, -, hout, -⟩ := h
  have hd := hout (.inr (.inr (.inl hp)))
  by_cases hb : ch.byteIndex.val < 5 <;> simp [Chain.BusInv, Chain.onStop2, hb, he, hd]

theorem Chain.onTurn_busInv (ch : Chain) (t : Nat) : (ch.onTurn t).BusInv :=
  .of_await rfl rfl oneHot_one fun _ => rfl

theorem Chain.onTimeout_busInv (ch : Chain) (cfg : Config) (t : Nat) : (ch.onTimeout cfg t).BusInv :=
  .of_frame_start rfl rfl rfl

/-- An edge has come, so the detector is off when the bit is sampled (R142). -/
theorem Chain.BusInv.onSample {ch : Chain} (h : ch.BusInv) (hp : ch.phase = .await) (ht : ch.timeoutFlag = false)
    (cfg : Config) (t : Nat) : (ch.onSample cfg t).BusInv := by
  obtain ⟨harmed, -, hawait, -, -⟩ := h
  obtain ⟨hd, hone⟩ := hawait hp
  have he : ch.edgeArmed = false := by
    refine Bool.eq_false_iff.2 fun he => ?_
    obtain ⟨-, -, hflag⟩ := harmed he
    simp [hflag] at ht
  unfold Chain.onSample
  by_cases hm : ch.bitMask = 0x80
  · rw [if_neg (not_not.2 hm)]
    exact .of_complete rfl hd he
  · rw [if_pos hm]
    exact .of_await hp hd (oneHot_shiftLeft hone hm) fun _ => rfl

/-- The interpretation of the reply leaves the detector off (R146). -/
theorem Chain.BusInv.onComplete {ch : Chain} (h : ch.BusInv) (hp : ch.phase = .complete) (cfg : Config) (t : Nat) :
    (ch.onComplete cfg t).BusInv := by
  obtain ⟨-, -, -, -, hcomplete⟩ := h
  have he : (ch.interpret ch.slotIndex ch.shiftReg).edgeArmed = false := by
    rw [Chain.interpret_only_slots]
    exact (hcomplete hp).2
  exact .of_frame_start he rfl rfl

theorem Chain.BusInv.onTimer {ch : Chain} (h : ch.BusInv) (cfg : Config) (t : Nat) : (ch.onTimer cfg t).BusInv := by
  unfold Chain.onTimer
  cases hp : ch.phase with
  | start => exact h.onStart hp cfg t
  | data => exact h.onData hp cfg t
  | stop1 => exact h.onStop1 hp cfg t
  | stop2 => exact h.onStop2 hp cfg t
  | turn => exact ch.onTurn_busInv t
  | await =>
    cases ht : ch.timeoutFlag with
    | true => exact ch.onTimeout_busInv cfg t
    | false => exact h.onSample hp ht cfg t
  | complete => exact h.onComplete hp cfg t

/-- An edge turns the detector off and clears the flag; phase, direction and mask stay (R150, R151). -/
theorem Chain.BusInv.onLine {ch : Chain} (h : ch.BusInv) (cfg : Config) (t : Nat) (v : Bool) :
    (ch.onLine cfg t v).BusInv := by
  unfold Chain.onLine
  simp only []
  split
  case isTrue hedge =>
    obtain ⟨-, -, he⟩ := hedge
    obtain ⟨harmed, -, hawait, -, -⟩ := h
    obtain ⟨hp, hd, -⟩ := harmed he
    exact .of_await hp hd (hawait hp).2 (by simp [Chain.edgeAction])
  case isFalse => exact h

/-! ### Every step -/

theorem State.BusInv.updChain {s : State} (h : s.BusInv) (c : Fin 3) {f : Chain → Chain}
    (hf : s.chains[c].BusInv → (f s.chains[c]).BusInv) : (s.updChain c f).BusInv :=
  fun c' => State.updChain_keeps hf c' (h c')

theorem ExecEffect.keeps_busInv {s s' : State} {i : Instr} (h : ExecEffect s i s') (hs : s.BusInv) : s'.BusInv := by
  cases h with
  | servoPos f c | servoReadout f c | led f c => exact hs.updChain c id
  | servoColor f c k =>
    refine hs.updChain c fun h => ?_
    split
    · exact h
    · exact h
  | busInit f c => exact hs.updChain c fun _ => Chain.resetWith_busInv _ _
  | busTimer ch c => exact hs.updChain c fun h => h.onTimer _ _
  | line v ch c => exact hs.updChain c fun h => h.onLine _ _ v
  | moveStart f m => exact fun c => s.startMasked_chains m ▸ hs c
  | tick => exact fun c => s.tick_chains ▸ hs c
  | reset => exact fun c => by fin_cases c <;> exact Chain.resetWith_busInv _ _
  | nop | badOperand | queueFull | enqueue | clear | moveQuery | queryPos => exact hs

/-- Settles O51: beside the instructions no step writes a chain. -/
theorem stepKeepsTheBusInvariants : Obligations.StepKeepsTheBusInvariants := by
  intro s s' hs h
  cases step_next h with
  | exec i rest n _ h _ => exact (exec_next h).1.keeps_busInv hs
  | flag | args | clearErr | read | advance => exact hs

end Sys2Proof.Machine

/-! PROOFS. The lists (10_state.md R54, R55): an insertion keeps the order and adds one waypoint, and every step keeps lists
sorted and no longer than WPQ_DEPTH. -/

namespace Sys2Proof.Machine

open Sys2Proof

/-- WP_ENQ's insertion (R240) is the library's, in the order of the starts. -/
theorem insertWaypoint_eq_orderedInsert (w : Waypoint) (l : List Waypoint) :
    insertWaypoint w l = l.orderedInsert ((fun v : Waypoint => v.start.toNat) ⁻¹'o (· ≤ ·)) w := by
  induction l with
  | nil => rfl
  | cons v vs ih => rw [insertWaypoint, List.orderedInsert_cons, ih]; rfl

theorem sortedByStart_insertWaypoint (w : Waypoint) {l : List Waypoint} (h : SortedByStart l) :
    SortedByStart (insertWaypoint w l) :=
  insertWaypoint_eq_orderedInsert w l ▸ List.Pairwise.orderedInsert w l h

@[simp] theorem length_insertWaypoint (w : Waypoint) (l : List Waypoint) :
    (insertWaypoint w l).length = l.length + 1 := by
  rw [insertWaypoint_eq_orderedInsert, List.orderedInsert_length]

/-- R54 and R55 for one list. -/
abbrev ListOk (depth : Nat) (l : List Waypoint) : Prop := SortedByStart l ∧ l.length ≤ depth

theorem ListOk.nil (depth : Nat) : ListOk depth [] := ⟨.nil, Nat.zero_le _⟩

theorem ListOk.tail {depth : Nat} {l : List Waypoint} (h : ListOk depth l) : ListOk depth l.tail :=
  ⟨h.1.tail, l.length_tail ▸ (Nat.sub_le _ _).trans h.2⟩

/-- A list that is not full has room for one more (R240). -/
theorem ListOk.insertWaypoint {depth : Nat} {l : List Waypoint} (h : ListOk depth l) (hroom : l.length ≠ depth)
    (w : Waypoint) : ListOk depth (insertWaypoint w l) :=
  ⟨sortedByStart_insertWaypoint w h.1, length_insertWaypoint w l ▸ lt_of_le_of_ne h.2 hroom⟩

theorem State.ListInv.updAct {s : State} (h : s.ListInv) (i : Fin 8) {f : Actuator → Actuator}
    (hf : ListOk s.cfg.wpqDepth s.acts[i].list → ListOk s.cfg.wpqDepth (f s.acts[i]).list) : (s.updAct i f).ListInv :=
  fun j => State.updAct_keeps (P := fun x => ListOk s.cfg.wpqDepth x.list) hf j (h j)

theorem State.ListInv.out {s : State} (h : s.ListInv) (i : Fin 8) (v : Word) : (s.out i v).ListInv :=
  h.updAct i (f := fun x => { x with outReg := v }) id

/-- A tick only retires heads (R214). -/
theorem State.ListInv.tick {s : State} (h : s.ListInv) : s.tick.ListInv :=
  tick_keeps (P := State.ListInv) (fun _ _ h => h)
    (stepActuator_keeps (fun _ i v h => h.out i v) (fun _ _ h => h) fun _ i _ _ _ h => h.updAct i ListOk.tail) s h

theorem State.ListInv.startMasked {s : State} (h : s.ListInv) (m : BitVec 2) : (s.startMasked m).ListInv :=
  startMasked_keeps (P := State.ListInv) (fun _ i h => h.updAct i id) (fun _ _ _ h => h) s m h

theorem ExecEffect.keeps_listInv {s s' : State} {i : Instr} (h : ExecEffect s i s') (hs : s.ListInv) : s'.ListInv := by
  cases h with
  | enqueue f j _ hroom => exact hs.updAct j fun h => h.insertWaypoint hroom _
  | clear f j => exact hs.updAct j fun _ => .nil _
  | moveStart f m => exact hs.startMasked m
  | tick => exact hs.tick
  | reset => exact fun j => by fin_cases j <;> exact ListOk.nil _
  | nop | badOperand | queueFull | moveQuery | servoPos | servoColor | servoReadout | led | queryPos | busInit | busTimer
  | line => exact hs

/-- Settles O52: beside the instructions no step writes a list. -/
theorem stepKeepsListsSortedAndBounded : Obligations.StepKeepsListsSortedAndBounded := by
  intro s s' hs h
  cases step_next h with
  | exec i rest n _ h _ => exact (exec_next h).1.keeps_listInv hs
  | flag | args | clearErr | read | advance => exact hs

end Sys2Proof.Machine

/-! PROOFS. Who may change what (10_state.md R25, R57, R58, R61; 60_exceptions.md R292): one lemma for each register, over
everything that an instruction can answer with. -/

namespace Sys2Proof.Machine

open Sys2Proof

/-! ### RESULT -/

theorem ExecEffect.result_eq {s s' : State} {i : Instr} (h : ExecEffect s i s') (hi : i ≠ .reset) :
    s'.result = s.result ∨ (∃ f, i = .moveQuery f) ∨ ∃ f, i = .modQueryPos f := by
  cases h with
  | moveQuery f => exact .inr (.inl ⟨f, rfl⟩)
  | queryPos f => exact .inr (.inr ⟨f, rfl⟩)
  | moveStart f m =>
    obtain ⟨-, -, -, -, -, hresult, -⟩ := s.startMasked_frame m
    exact .inl hresult
  | tick =>
    obtain ⟨-, -, -, -, -, hresult, -⟩ := s.tick_frame
    exact .inl hresult
  | reset => exact absurd rfl hi
  | nop | badOperand | queueFull | enqueue | clear | servoPos | servoColor | servoReadout | led | busInit | busTimer
  | line => exact .inl rfl

/-! ### The level of a line -/

theorem Chain.interpret_lineIn (ch : Chain) (s : Fin 4) (r : Byte) : (ch.interpret s r).lineIn = ch.lineIn := by
  rw [Chain.interpret_only_slots]

/-- A chain's timer reads the level of the line and never writes it (R25). -/
theorem Chain.onTimer_lineIn (ch : Chain) (cfg : Config) (t : Nat) : (ch.onTimer cfg t).lineIn = ch.lineIn := by
  unfold Chain.onTimer
  cases ch.phase with
  | start | data | stop1 | turn => rfl
  | stop2 => by_cases hb : ch.byteIndex.val < 5 <;> simp [Chain.onStop2, hb]
  | await =>
    cases ch.timeoutFlag with
    | true => rfl
    | false => by_cases hm : ch.bitMask = 0x80#8 <;> simp [Chain.onSample, hm]
  | complete => exact ch.interpret_lineIn _ _

theorem State.updChain_lineIn {s : State} {c : Fin 3} {f : Chain → Chain}
    (hf : (f s.chains[c]).lineIn = s.chains[c].lineIn) (c' : Fin 3) :
    (s.updChain c f).chains[c'].lineIn = s.chains[c'].lineIn :=
  State.updChain_keeps (P := fun x => x.lineIn = s.chains[c'].lineIn) hf.trans c' rfl

theorem ExecEffect.lineIn_eq {s s' : State} {i : Instr} (h : ExecEffect s i s') (hi : i ≠ .reset) (c : Fin 3) :
    s'.chains[c].lineIn = s.chains[c].lineIn ∨ ∃ v, i = .line v (BitVec.ofNat 2 c.val) := by
  cases h with
  | servoPos | servoReadout | led | busInit => exact .inl (State.updChain_lineIn rfl c)
  | servoColor f c' k b =>
    refine .inl (State.updChain_lineIn ?_ c)
    split
    · rfl
    · rfl
  | busTimer => exact .inl (State.updChain_lineIn (Chain.onTimer_lineIn _ _ _) c)
  | line v ch c' hc =>
    by_cases hcc : c' = c
    · subst hcc
      refine .inr ⟨v, ?_⟩
      rw [← (chainIndex_eq_some.1 hc).1, BitVec.ofNat_toNat, BitVec.setWidth_eq]
    · rw [State.updChain_other _ _ hcc]
      exact .inl rfl
  | moveStart f m => exact .inl (by rw [State.startMasked_chains])
  | tick => exact .inl (by rw [State.tick_chains])
  | reset => exact absurd rfl hi
  | nop | badOperand | queueFull | enqueue | clear | moveQuery | queryPos => exact .inl rfl

/-! ### The actuators and the trace -/

theorem State.updAct_proj {α : Type} (g : Actuator → α) {s : State} {i : Fin 8} {f : Actuator → Actuator}
    (hf : g (f s.acts[i]) = g s.acts[i]) (j : Fin 8) : g (s.updAct i f).acts[j] = g s.acts[j] :=
  State.updAct_keeps (P := fun x => g x = g s.acts[j]) hf.trans j rfl

theorem State.startMasked_outReg (s : State) (m : BitVec 2) (j : Fin 8) :
    (s.startMasked m).acts[j].outReg = s.acts[j].outReg :=
  startMasked_keeps (P := fun x => x.acts[j].outReg = s.acts[j].outReg)
    (fun _ _ h => (State.updAct_proj Actuator.outReg rfl j).trans h) (fun _ _ _ h => h) s m rfl

theorem ExecEffect.actual_eq {s s' : State} {i : Instr} (h : ExecEffect s i s') (hi : i ≠ .reset) (j : Fin 8) :
    s'.acts[j].actual = s.acts[j].actual ∨ i = .tick ∨ ∃ f, i = .moveStart f := by
  cases h with
  | tick => exact .inr (.inl rfl)
  | moveStart f => exact .inr (.inr ⟨f, rfl⟩)
  | enqueue | clear => exact .inl (State.updAct_proj Actuator.actual rfl j)
  | reset => exact absurd rfl hi
  | nop | badOperand | queueFull | moveQuery | servoPos | servoColor | servoReadout | led | queryPos | busInit | busTimer
  | line => exact .inl rfl

/-- What has been put out changes at a tick alone (R58, R292). -/
theorem ExecEffect.outReg_eq {s s' : State} {i : Instr} (h : ExecEffect s i s') (hi : i ≠ .reset) (j : Fin 8) :
    s'.acts[j].outReg = s.acts[j].outReg ∨ i = .tick := by
  cases h with
  | tick => exact .inr rfl
  | moveStart f m => exact .inl (s.startMasked_outReg m j)
  | enqueue | clear => exact .inl (State.updAct_proj Actuator.outReg rfl j)
  | reset => exact absurd rfl hi
  | nop | badOperand | queueFull | moveQuery | servoPos | servoColor | servoReadout | led | queryPos | busInit | busTimer
  | line => exact .inl rfl

theorem ExecEffect.trace_eq {s s' : State} {i : Instr} (h : ExecEffect s i s') : s'.trace = s.trace ∨ i = .tick := by
  cases h with
  | tick => exact .inr rfl
  | moveStart f m =>
    obtain ⟨-, -, -, -, -, -, -, htrace, -⟩ := s.startMasked_frame m
    exact .inl htrace
  | nop | badOperand | queueFull | enqueue | clear | moveQuery | servoPos | servoColor | servoReadout | led | queryPos
  | busInit | busTimer | line | reset => exact .inl rfl

/-- Settles O58, register by register. -/
theorem whoMayChangeWhat : Obligations.WhoMayChangeWhat := by
  intro i s s' h hi
  have he := (exec_next h).1
  exact ⟨(he.result_eq hi).resolve_left, fun c => (he.lineIn_eq hi c).resolve_left,
    fun j => (he.actual_eq hi j).resolve_left, fun j => (he.outReg_eq hi j).resolve_left, he.trace_eq.resolve_left⟩

end Sys2Proof.Machine

/-! PROOFS. ERR and the trace (20_memory.md R78; 10_state.md R21): an instruction only raises flags and appends records of its
own instant, a RESET apart, and what a step makes of ERR in all. -/

namespace Sys2Proof.Machine

open Sys2Proof

/-! ### ERR -/

/-- `err'` is `err` with some more flags raised, and no reserved bit (R9, R78). -/
def FlagsRaised (err err' : Word) : Prop := ∃ m : Word, m &&& ~~~errMask = 0 ∧ err' = err ||| m

theorem ErrFlag.mask_reserved (e : ErrFlag) : e.mask &&& ~~~errMask = 0 := by
  cases e with
  | windowErr i => revert i; decide
  | illegalCmd | badOperand | queueFull | badAccess => decide

theorem FlagsRaised.of_eq {err err' : Word} (h : err' = err) : FlagsRaised err err' :=
  ⟨0, by decide, by simp [h]⟩

theorem FlagsRaised.raiseErr {err : Word} {s : State} (h : FlagsRaised err s.err) (e : ErrFlag) :
    FlagsRaised err (s.raiseErr e).err := by
  obtain ⟨m, hm, herr⟩ := h
  refine ⟨m ||| e.mask, ?_, ?_⟩
  · rw [BitVec.and_or_distrib_right, hm, e.mask_reserved, BitVec.or_self]
  · rw [State.raiseErr_err, herr, BitVec.or_assoc]

theorem FlagsRaised.reserved {err err' : Word} (h : FlagsRaised err err') (hr : err &&& ~~~errMask = 0) :
    err' &&& ~~~errMask = 0 := by
  obtain ⟨m, hm, rfl⟩ := h
  rw [BitVec.and_or_distrib_right, hr, hm, BitVec.or_self]

theorem FlagsRaised.getLsbD {err err' : Word} (h : FlagsRaised err err') {k : Nat} (hk : err.getLsbD k = true) :
    err'.getLsbD k = true := by
  obtain ⟨m, -, rfl⟩ := h
  simp [hk]

/-- A tick raises flags and clears none (R215). -/
theorem State.tick_flagsRaised (s : State) : FlagsRaised s.err s.tick.err :=
  tick_keeps (P := fun x => FlagsRaised s.err x.err) (fun _ _ h => h)
    (stepActuator_keeps (fun _ _ _ h => h) (fun _ _ h => h.raiseErr _) fun _ _ _ _ _ h => h) s (.of_eq rfl)

theorem ExecEffect.flagsRaised {s s' : State} {i : Instr} (h : ExecEffect s i s') (hi : i ≠ .reset) :
    FlagsRaised s.err s'.err := by
  cases h with
  | badOperand | queueFull => exact FlagsRaised.raiseErr (.of_eq rfl) _
  | moveStart f m =>
    obtain ⟨-, -, -, -, -, -, herr, -⟩ := s.startMasked_frame m
    exact .of_eq herr
  | tick => exact s.tick_flagsRaised
  | reset => exact absurd rfl hi
  | nop | enqueue | clear | moveQuery | servoPos | servoColor | servoReadout | led | queryPos | busInit | busTimer
  | line => exact .of_eq rfl

/-- What a step can make of ERR: raise flags, clear what the host writes 1 to, or clear all at a RESET (R76, R78, R300). -/
theorem StepEffect.err_cases {s s' : State} (h : StepEffect s s') :
    FlagsRaised s.err s'.err ∨
    (∃ v rest, s.inputs = .write 0x14 4 v :: rest ∧ s'.err = errAfterWrite s.err v) ∨
    (∃ w rest, s.inputs = .event w :: rest ∧ decodeEvent w = .ok .reset ∧ s'.err = 0) := by
  cases h with
  | exec i rest n _ h hreset =>
    by_cases hi : i = .reset
    · obtain ⟨w, hin, hw⟩ := hreset hi
      subst hi
      obtain rfl := Host.Outcome.next.inj h
      exact .inr (.inr ⟨w, rest, hin, hw, rfl⟩)
    · exact .inl ((exec_next h).1.flagsRaised hi)
  | flag rest e => exact .inl (FlagsRaised.raiseErr (.of_eq rfl) e)
  | clearErr rest v hin => exact .inr (.inl ⟨v, rest, hin, rfl⟩)
  | args | read | advance => exact .inl (.of_eq rfl)

theorem errAfterWrite_reserved {err : Word} (h : err &&& ~~~errMask = 0) (v : Word) :
    errAfterWrite err v &&& ~~~errMask = 0 := by
  rw [errAfterWrite, BitVec.and_assoc, BitVec.and_comm (~~~_), ← BitVec.and_assoc, h]
  exact BitVec.zero_and

/-- A write clears the bits written 1 inside ERR_MASK (R76). -/
theorem getLsbD_errAfterWrite (err v : Word) (k : Nat) :
    (errAfterWrite err v).getLsbD k = (err.getLsbD k && !(v.getLsbD k && errMask.getLsbD k)) := by
  by_cases hk : k < 32
  · simp only [errAfterWrite, BitVec.getLsbD_and, BitVec.getLsbD_not, hk, decide_true, Bool.true_and]
  · simp [BitVec.getLsbD_of_ge, not_lt.1 hk]

/-- The bits of ERR_MASK, one by one (R78). -/
theorem errMask_bits {k : Nat} (h : errMask.getLsbD k = true) : k ∈ [0, 1, 2, 3, 8, 9, 10, 11, 12, 13, 14, 15] := by
  have hbits : ∀ j : Fin 32, errMask.getLsbD j.val = true → j.val ∈ [0, 1, 2, 3, 8, 9, 10, 11, 12, 13, 14, 15] := by decide
  exact hbits ⟨k, BitVec.lt_of_getLsbD h⟩ h

/-! ### The trace -/

theorem ExecEffect.trace_append {s s' : State} {i : Instr} (h : ExecEffect s i s') :
    ∃ recs, s'.trace = s.trace ++ recs ∧ ∀ r ∈ recs, r.t = s.t := by
  obtain htrace | rfl := h.trace_eq
  · exact ⟨[], by simp [htrace]⟩
  · cases h with
    | badOperand => exact ⟨[], by simp⟩
    | tick => exact s.tick_trace

/-- Records of the present instant, and then more time (R21, R6). -/
theorem State.TraceInv.append {s s' : State} {recs : List OutRecord} (h : s.TraceInv) (htrace : s'.trace = s.trace ++ recs)
    (hrecs : ∀ r ∈ recs, r.t = s.t) (ht : s.t ≤ s'.t) : s'.TraceInv := by
  obtain ⟨hsorted, hpast⟩ := h
  rw [State.TraceInv, htrace]
  refine ⟨List.pairwise_append.2 ⟨hsorted, ?_, fun a ha b hb => (hrecs b hb).symm ▸ hpast a ha⟩, fun r hr => ?_⟩
  · exact List.pairwise_of_forall_mem_list fun a ha b hb => ((hrecs a ha).trans (hrecs b hb).symm).le
  · obtain hr | hr := List.mem_append.1 hr
    · exact (hpast r hr).trans ht
    · exact (hrecs r hr).trans_le ht

theorem StepEffect.keeps_traceInv {s s' : State} (h : StepEffect s s') (hs : s.TraceInv) : s'.TraceInv := by
  obtain ⟨-, ht, -⟩ := h.keeps_history
  cases h with
  | exec i rest n _ h _ =>
    have he := (exec_next h).1
    obtain ⟨recs, htrace, hrecs⟩ := he.trace_append
    exact hs.append htrace hrecs ht
  | flag | args | clearErr | read | advance => exact hs.append (List.append_nil _).symm (by simp) ht

/-- Settles O54: a step raises flags of ERR_MASK or clears bits, and appends records of its own instant. -/
theorem stepKeepsErrAndTraceInvariants : Obligations.StepKeepsErrAndTraceInvariants := by
  intro s s' h
  have he := step_next h
  refine ⟨fun hs => ?_, he.keeps_traceInv⟩
  obtain hraised | ⟨v, rest, -, herr⟩ | ⟨w, rest, -, -, herr⟩ := he.err_cases
  · exact hraised.reserved hs
  · rw [State.ErrInv, herr]
    exact errAfterWrite_reserved hs v
  · rw [State.ErrInv, herr]
    exact BitVec.zero_and

/-- Settles O57: of the three things a step can make of ERR only two clear a bit. -/
theorem errBitsAreSticky : Obligations.ErrBitsAreSticky := by
  intro s s' k h hk
  obtain hraised | ⟨v, rest, hin, herr⟩ | ⟨w, rest, hin, hw, -⟩ := (step_next h).err_cases
  · exact .inl (hraised.getLsbD hk)
  · rw [herr, getLsbD_errAfterWrite, hk, Bool.true_and]
    cases hcleared : v.getLsbD k && errMask.getLsbD k with
    | false => exact .inl rfl
    | true =>
      obtain ⟨hv, hmask⟩ := Bool.and_eq_true_iff.1 hcleared
      exact .inr (.inl ⟨v, rest, hin, hv, errMask_bits hmask⟩)
  · exact .inr (.inr ⟨w, rest, hin, hw⟩)

end Sys2Proof.Machine

/-! PROOFS. The register window as the host reads it (20_memory.md R71 to R75, R79 to R82): which accesses are well-formed,
the register at each offset, and the fields of the readback words. -/

namespace Sys2Proof.Machine

open Sys2Proof

/-! ### Accesses -/

theorem accessOk_iff {off : Byte} {size : Nat} : accessOk off size = true ↔ size = 4 ∧ off.toNat % 4 = 0 := by
  have hlow : off.extractLsb' 0 2 = 0 ↔ off.toNat % 4 = 0 := by
    rw [← BitVec.toNat_inj, BitVec.extractLsb'_toNat]
    rfl
  rw [accessOk, Bool.and_eq_true, beq_iff_eq, beq_iff_eq, hlow]

theorem accessOk_eq_false {off : Byte} {size : Nat} (h : size ≠ 4 ∨ off.toNat % 4 ≠ 0) : accessOk off size = false := by
  rw [Bool.eq_false_iff, ne_eq, accessOk_iff]
  tauto

/-- A well-formed read returns the register (R75). -/
theorem State.regRead_aligned (s : State) {n : Nat} (hn : n < 256) (h4 : n % 4 = 0) :
    s.regRead (BitVec.ofNat 8 n) 4 = s.register n := by
  have hoff : (BitVec.ofNat 8 n).toNat = n := by rw [BitVec.toNat_ofNat]; omega
  rw [State.regRead, if_pos (accessOk_iff.2 ⟨rfl, hoff.symm ▸ h4⟩), hoff]

theorem State.regRead_malformed (s : State) {off : Byte} {size : Nat} (h : size ≠ 4 ∨ off.toNat % 4 ≠ 0) :
    s.regRead off size = 0 := by
  rw [State.regRead, accessOk_eq_false h]
  rfl

theorem step_read {s : State} {off : Byte} {size : Nat} {rest : List Input} (hs : s.started = true)
    (hin : s.inputs = .read off size :: rest) :
    step s = .next { s with inputs := rest, reads := s.reads ++ [⟨s.t, off, size, s.regRead off size⟩] } := by
  rw [step, nextStep, hin]
  exact whenStarted_started hs

/-! ### The register map -/

theorem State.register_out (s : State) (i : Fin 8) : s.register (0x20 + 4 * i.val) = s.acts[i].outReg := by
  fin_cases i <;> rfl

theorem State.register_actual (s : State) (i : Fin 8) : s.register (0x40 + 4 * i.val) = s.acts[i].actual := by
  fin_cases i <;> rfl

theorem State.register_wpcnt (s : State) (i : Fin 8) :
    s.register (0x60 + 4 * i.val) = countWord s.acts[i].list.length := by
  fin_cases i <;> rfl

theorem State.register_busState (s : State) (c : Fin 3) :
    s.register (0x80 + 4 * c.val) = if s.hasChain c then s.chains[c].busStateWord else 0 := by
  fin_cases c <;> rfl

theorem State.register_busAux (s : State) (c : Fin 3) :
    s.register (0x90 + 4 * c.val) = if s.hasChain c then s.chains[c].busAuxWord else 0 := by
  fin_cases c <;> rfl

theorem State.register_slot (s : State) (c : Fin 3) (k : Fin 4) :
    s.register (0xA0 + 16 * c.val + 4 * k.val) = if s.hasChain c then s.chains[c].slots[k].slotWord else 0 := by
  fin_cases c <;> fin_cases k <;> rfl

theorem State.register_reserved (s : State) (k : Fin 12) : s.register (0xD0 + 4 * k.val) = 0 := by
  fin_cases k <;> rfl

/-- STATUS as a number: bit 0 for the left arm, bit 1 for the right (R79). -/
theorem State.statusWord_toNat (s : State) :
    s.statusWord.toNat = (if s.sessions[0].active then 1 else 0) + 2 * (if s.sessions[1].active then 1 else 0) := by
  rw [State.statusWord]
  cases s.sessions[0].active <;> cases s.sessions[1].active <;> rfl

theorem State.hasChain_iff {s : State} {c : Fin 3} : s.hasChain c = true ↔ c.val < s.cfg.nChains.toNat := by
  simp [State.hasChain]

theorem State.hasChain_eq_false {s : State} {c : Fin 3} (h : s.cfg.nChains.toNat ≤ c.val) : s.hasChain c = false :=
  decide_eq_false h.not_gt

/-- Settles O46, group by group of the map. -/
theorem readsFollowTheRegisterMap : Obligations.ReadsFollowTheRegisterMap := by
  intro s
  refine ⟨rfl, rfl, rfl, rfl, rfl, rfl, rfl, s.statusWord_toNat, fun i => ⟨?_, ?_, ?_⟩, rfl, rfl, fun k => ?_,
    fun c k hc => ⟨?_, ?_, ?_⟩⟩
  · rw [s.regRead_aligned (by omega) (by omega), s.register_out]
  · rw [s.regRead_aligned (by omega) (by omega), s.register_actual]
  · rw [s.regRead_aligned (by omega) (by omega), s.register_wpcnt]
    rfl
  · rw [s.regRead_aligned (by omega) (by omega), s.register_reserved]
  · rw [s.regRead_aligned (by omega) (by omega), s.register_busState, State.hasChain_eq_false hc]
    rfl
  · rw [s.regRead_aligned (by omega) (by omega), s.register_busAux, State.hasChain_eq_false hc]
    rfl
  · rw [s.regRead_aligned (by omega) (by omega), s.register_slot, State.hasChain_eq_false hc]
    rfl

/-- Settles O48. -/
theorem readsHaveNoSideEffect : Obligations.ReadsHaveNoSideEffect :=
  fun s _ _ _ hs hin => ⟨step_read hs hin, s.regRead_malformed⟩

/-! ### Bytes -/

theorem byteOfWord_toNat (v : Word) (k : Nat) : (byteOfWord v k).toNat = v.toNat / 256 ^ k % 256 := by
  rw [byteOfWord, BitVec.extractLsb'_toNat, Nat.shiftRight_eq_div_pow, pow_mul]
  rfl

/-- Settles O50: the byte is the register's, at every offset. -/
theorem windowIsLittleEndian : Obligations.WindowIsLittleEndian := by
  intro s n k hn hk
  have hreg : 4 * n + k - (4 * n + k) % 4 = 4 * n := by omega
  have hbyte : (4 * n + k) % 4 = k := by omega
  rw [State.windowByte, hreg, hbyte, byteOfWord_toNat, s.regRead_aligned (by omega) (by omega)]

/-! ### The readback words -/

theorem Dir.bit_eq_ofBool (d : Dir) : d.bit = BitVec.ofBool (decide (d = .output)) := by
  cases d <;> rfl

theorem getLsbD_of_bitField {w : Word} {i : Nat} {b : Bool} (h : w.extractLsb' i 1 = BitVec.ofBool b) :
    w.getLsbD i = b := by
  simpa using congrArg (BitVec.getLsbD · 0) h

/-- The fields of BUS_STATE: what stands below a field is dropped, and the field is then the lowest. -/
theorem Chain.busStateWord_fields (ch : Chain) :
    ch.busStateWord.extractLsb' 0 3 = ch.phase.code ∧
      ch.busStateWord.extractLsb' 3 3 = BitVec.ofNat 3 ch.byteIndex.val ∧
      ch.busStateWord.extractLsb' 6 1 = BitVec.ofBool ch.timeoutFlag ∧
      ch.busStateWord.extractLsb' 7 1 = BitVec.ofBool ch.edgeArmed ∧
      ch.busStateWord.extractLsb' 8 8 = ch.bitMask ∧ ch.busStateWord.extractLsb' 16 8 = ch.shiftReg ∧
      ch.busStateWord.extractLsb' 24 2 = BitVec.ofNat 2 ch.slotIndex.val ∧
      ch.busStateWord.extractLsb' 26 1 = ch.lineDir.bit ∧ ch.busStateWord.extractLsb' 27 1 = BitVec.ofBool ch.lineOut ∧
      ch.busStateWord.extractLsb' 28 1 = BitVec.ofBool ch.lineIn ∧ ch.busStateWord.extractLsb' 29 3 = 0 := by
  refine ⟨?_, ?_, ?_, ?_, ?_, ?_, ?_, ?_, ?_, ?_, ?_⟩
  all_goals repeat refine (BitVec.extractLsb'_append_eq_of_le (by decide)).trans ?_
  case refine_11 => exact BitVec.extractLsb'_eq_self
  all_goals exact BitVec.extractLsb'_append_eq_right

theorem Chain.busAuxWord_fields (ch : Chain) :
    ch.busAuxWord.extractLsb' 0 8 = ch.ledPair0 ∧ ch.busAuxWord.extractLsb' 8 8 = ch.ledPair1 ∧
      ch.busAuxWord.extractLsb' 16 8 = ch.cs ∧ ch.busAuxWord.extractLsb' 24 1 = BitVec.ofBool ch.lpValid ∧
      ch.busAuxWord.extractLsb' 25 2 = BitVec.ofNat 2 ch.lpSlot.val ∧ ch.busAuxWord.extractLsb' 27 5 = 0 := by
  refine ⟨?_, ?_, ?_, ?_, ?_, ?_⟩
  all_goals repeat refine (BitVec.extractLsb'_append_eq_of_le (by decide)).trans ?_
  case refine_6 => exact BitVec.extractLsb'_eq_self
  all_goals exact BitVec.extractLsb'_append_eq_right

theorem Slot.slotWord_fields (sl : Slot) :
    sl.slotWord.extractLsb' 0 8 = sl.pending ∧ sl.slotWord.extractLsb' 8 8 = sl.lastInput ∧
      sl.slotWord.extractLsb' 16 2 = sl.mtype.code ∧ sl.slotWord.extractLsb' 18 1 = BitVec.ofBool sl.ledPhase ∧
      sl.slotWord.extractLsb' 19 13 = 0 := by
  refine ⟨?_, ?_, ?_, ?_, ?_⟩
  all_goals repeat refine (BitVec.extractLsb'_append_eq_of_le (by decide)).trans ?_
  case refine_5 => exact BitVec.extractLsb'_eq_self
  all_goals exact BitVec.extractLsb'_append_eq_right

/-- A number below 2^w as a field of width w. -/
theorem toNat_of_field {w n : Nat} {x : BitVec w} (h : x = BitVec.ofNat w n) (hn : n < 2 ^ w) : x.toNat = n := by
  rw [h, BitVec.toNat_ofNat, Nat.mod_eq_of_lt hn]

/-- Settles O47: the reads of an existing chain are its readback words. -/
theorem readbackWordsHoldTheirFields : Obligations.ReadbackWordsHoldTheirFields := by
  intro s c k ch bs aux sl hc hch hbs haux hsl
  have hlive := State.hasChain_iff.2 hc
  rw [s.regRead_aligned (by omega) (by omega), s.register_busState, if_pos hlive, ← hch] at hbs
  rw [s.regRead_aligned (by omega) (by omega), s.register_busAux, if_pos hlive, ← hch] at haux
  rw [s.regRead_aligned (by omega) (by omega), s.register_slot, if_pos hlive, ← hch] at hsl
  subst hbs haux hsl
  obtain ⟨hphase, hbyte, htimeout, hedge, hmask, hshift, hslot, hdir, hout, hin, hbs0⟩ := ch.busStateWord_fields
  obtain ⟨hled0, hled1, hcs, hlpv, hlps, haux0⟩ := ch.busAuxWord_fields
  obtain ⟨hpending, hlast, hmtype, hled, hsl0⟩ := ch.slots[k].slotWord_fields
  exact ⟨hphase, toNat_of_field hbyte (by omega), getLsbD_of_bitField htimeout, getLsbD_of_bitField hedge, hmask, hshift,
    toNat_of_field hslot (by omega), getLsbD_of_bitField (hdir.trans ch.lineDir.bit_eq_ofBool), getLsbD_of_bitField hout,
    getLsbD_of_bitField hin, hbs0, hled0, hled1, hcs, getLsbD_of_bitField hlpv, toNat_of_field hlps (by omega), haux0,
    hpending, hlast, hmtype, getLsbD_of_bitField hled, hsl0⟩

end Sys2Proof.Machine

/-! PROOFS. The register window as the host writes it (20_memory.md R72, R76, R78), offset by offset. -/

namespace Sys2Proof.Machine

open Sys2Proof

theorem step_write {s : State} {off : Byte} {size : Nat} {v : Word} {rest : List Input}
    (hin : s.inputs = .write off size v :: rest) : step s = hostWrite { s with inputs := rest } off size v := by
  rw [step, nextStep, hin]
  rfl

theorem hostWrite_malformed {s : State} {off : Byte} {size : Nat} (v : Word) (hs : s.started = true)
    (h : size ≠ 4 ∨ off.toNat % 4 ≠ 0) : hostWrite s off size v = .next (s.raiseErr .badAccess) := by
  rw [hostWrite, whenStarted_started hs, accessOk_eq_false h]
  rfl

/-- The offsets that take a write (R76). -/
theorem hostWrite_writable {s : State} (v : Word) (hs : s.started = true) :
    hostWrite s 0x00 4 v = commandWrite s v ∧ hostWrite s 0x04 4 v = .next { s with arg0 := v } ∧
      hostWrite s 0x08 4 v = .next { s with arg1 := v } ∧ hostWrite s 0x0C 4 v = .next { s with arg2 := v } ∧
      hostWrite s 0x14 4 v = .next { s with err := errAfterWrite s.err v } :=
  ⟨whenStarted_started hs, whenStarted_started hs, whenStarted_started hs, whenStarted_started hs, whenStarted_started hs⟩

/-- Every other offset takes none (R76). -/
theorem hostWrite_readOnly {s : State} {off : Byte} (v : Word) (hs : s.started = true) (h4 : off.toNat % 4 = 0)
    (hoff : off.toNat ∉ [0x00, 0x04, 0x08, 0x0C, 0x14]) : hostWrite s off 4 v = .next (s.raiseErr .badAccess) := by
  have hne : ∀ b : Byte, b.toNat ∈ [0x00, 0x04, 0x08, 0x0C, 0x14] → off ≠ b := fun b hb h => hoff (h ▸ hb)
  rw [hostWrite, whenStarted_started hs, if_pos (accessOk_iff.2 ⟨rfl, h4⟩), if_neg (hne _ (by decide)),
    if_neg (hne _ (by decide)), if_neg (hne _ (by decide)), if_neg (hne _ (by decide)), if_neg (hne _ (by decide))]

theorem commandWrite_ok {s : State} {v : Word} {i : Instr} (h : decodeCommand v = .ok i) : commandWrite s v = exec i s := by
  rw [commandWrite, h]

/-- Settles O49, offset by offset. -/
theorem writesFollowTheRegisterMap : Obligations.WritesFollowTheRegisterMap := by
  intro s off size v rest hs hin
  rw [step_write hin]
  obtain ⟨hcmd, harg0, harg1, harg2, herr⟩ := hostWrite_writable (s := { s with inputs := rest }) v hs
  refine ⟨hostWrite_malformed v hs, ?_, ?_, ?_, ?_, ?_, ?_⟩
  · rintro rfl rfl i hi
    rw [hcmd, commandWrite_ok hi]
  · rintro rfl rfl
    exact harg0
  · rintro rfl rfl
    exact harg1
  · rintro rfl rfl
    exact harg2
  · rintro rfl rfl
    exact herr
  · rintro rfl h4 hoff
    exact hostWrite_readOnly v hs h4 hoff

end Sys2Proof.Machine

/-! PROOFS. The decoder and the encoder are inverse to each other (30_encoding.md R100, R101, R110, R111): `decodeCommand`
answers exactly the words of the commands, `decodeEvent` exactly those of the events. Which words decode, and that no bit is
lost, follows from these two facts alone. -/

namespace Sys2Proof

theorem toNat_opField (w : Word) : (opField w).toNat = w.toNat % 256 := by
  simp [opField]

@[simp] theorem isEventWord_commandWord (op : Byte) (f : CmdFields) :
    isEventWord (commandWord op f) = decide (0x80 ≤ op.toNat) := by
  rw [isEventWord, opField_commandWord]

@[simp] theorem isEventWord_eventWord (ev : Byte) (lv : Bool) (ch : BitVec 2) :
    isEventWord (eventWord ev lv ch) = decide (0x80 ≤ ev.toNat) := by
  rw [isEventWord, opField_eventWord]

/-- A command word is read back: the chain of comparisons reaches the row of its OP. -/
theorem decodeCommand_encode {i : Instr} (h : isEventWord (encode i) = false) : decodeCommand (encode i) = .ok i := by
  cases i with
  | busTimer | line | tick | reset => simp [encode] at h
  | nop | wpEnq | wpClear | moveStart | moveQuery | modServoPos | modServoColor | modServoReadout | modLed | modQueryPos
  | modBusInit => simp [encode, decodeCommand]

/-- An event word is read back: its zero fields are 0. -/
theorem decodeEvent_encode {i : Instr} (h : isEventWord (encode i) = true) : decodeEvent (encode i) = .ok i := by
  cases i with
  | busTimer | tick | reset => simp [encode, decodeEvent]
  | line lv => cases lv <;> simp [encode, decodeEvent]
  | nop | wpEnq | wpClear | moveStart | moveQuery | modServoPos | modServoColor | modServoReadout | modLed | modQueryPos
  | modBusInit => simp [encode] at h

/-- The OP values of the eleven commands (R104). -/
def commandOps : List Byte := [0x00#8, 0x01#8, 0x02#8, 0x03#8, 0x04#8, 0x10#8, 0x11#8, 0x12#8, 0x13#8, 0x14#8, 0x15#8]

/-- Every row of R104 is the encoding of a command. -/
theorem exists_encode_eq_commandWord {op : Byte} (hop : op ∈ commandOps) (f : CmdFields) :
    ∃ i, encode i = commandWord op f := by
  simp only [commandOps, List.mem_cons, List.not_mem_nil, or_false] at hop
  rcases hop with rfl | rfl | rfl | rfl | rfl | rfl | rfl | rfl | rfl | rfl | rfl
  exacts [⟨.nop f, rfl⟩, ⟨.wpEnq f, rfl⟩, ⟨.wpClear f, rfl⟩, ⟨.moveStart f, rfl⟩, ⟨.moveQuery f, rfl⟩,
    ⟨.modServoPos f, rfl⟩, ⟨.modServoColor f, rfl⟩, ⟨.modServoReadout f, rfl⟩, ⟨.modLed f, rfl⟩, ⟨.modQueryPos f, rfl⟩,
    ⟨.modBusInit f, rfl⟩]

/-- A word with the OP of a command is the encoding of a command, and lies outside the event space (R105). -/
theorem exists_encode_eq_of_op {w : Word} (hop : opField w ∈ commandOps) :
    (∃ i, encode i = w) ∧ isEventWord w = false := by
  have hlow : ∀ op ∈ commandOps, decide (0x80 ≤ op.toNat) = false := by decide
  exact ⟨commandWord_fields w ▸ exists_encode_eq_commandWord hop (cmdFields w), hlow _ hop⟩

/-- Every other OP is illegal (R101, R105). -/
theorem decodeCommand_illegal {w : Word} (hop : opField w ∉ commandOps) :
    decodeCommand w = .error (.illegalOp (opField w)) := by
  simp only [commandOps, List.mem_cons, List.not_mem_nil, or_false, not_or] at hop
  simp only [decodeCommand, hop, if_false]

theorem decodeCommand_eq_ok_iff {w : Word} {i : Instr} :
    decodeCommand w = .ok i ↔ encode i = w ∧ isEventWord w = false := by
  constructor
  · intro h
    by_cases hop : opField w ∈ commandOps
    · obtain ⟨⟨j, rfl⟩, hev⟩ := exists_encode_eq_of_op hop
      rw [decodeCommand_encode hev] at h
      cases h
      exact ⟨rfl, hev⟩
    · rw [decodeCommand_illegal hop] at h
      cases h
  · rintro ⟨rfl, h⟩
    exact decodeCommand_encode h

/-- What the checks of R110 and R111 let pass. -/
def EventFieldsOk (w : Word) : Prop :=
  rsvField w = 0 ∧ midZeroField w = 0 ∧
    ((opField w = 0x80#8 ∧ lvField w = 0) ∨ opField w = 0x81#8 ∨
      ((opField w = 0x82#8 ∨ opField w = 0x83#8) ∧ lvField w = 0 ∧ chField w = 0))

/-- A word that passes the checks is the encoding of an event. -/
theorem exists_encode_eq_of_eventFieldsOk {w : Word} (h : EventFieldsOk w) :
    (∃ i, encode i = w) ∧ isEventWord w = true := by
  obtain ⟨hr, hm, hev⟩ := h
  have hw := eventWord_fields w hm hr
  rcases hev with ⟨hop, hlv⟩ | hop | ⟨hop | hop, hlv, hch⟩
  · rw [hop, hlv] at hw
    exact ⟨⟨.busTimer _, hw⟩, by simp [isEventWord, hop]⟩
  · rw [hop] at hw
    exact ⟨⟨.line _ _, hw⟩, by simp [isEventWord, hop]⟩
  · rw [hop, hlv, hch] at hw
    exact ⟨⟨.tick, hw⟩, by simp [isEventWord, hop]⟩
  · rw [hop, hlv, hch] at hw
    exact ⟨⟨.reset, hw⟩, by simp [isEventWord, hop]⟩

/-- Every other word is no event (R111). -/
theorem decodeEvent_invalid {w : Word} (h : ¬ EventFieldsOk w) : decodeEvent w = .error (.invalidEvent w) := by
  by_cases hz : midZeroField w = 0 ∧ rsvField w = 0
  · have hbusTimer : ¬(opField w = 0x80#8 ∧ lvField w = 0) := fun hev => h ⟨hz.2, hz.1, .inl hev⟩
    have hline : ¬opField w = 0x81#8 := fun hev => h ⟨hz.2, hz.1, .inr (.inl hev)⟩
    have htick : ¬(opField w = 0x82#8 ∧ lvField w = 0 ∧ chField w = 0) :=
      fun hev => h ⟨hz.2, hz.1, .inr (.inr ⟨.inl hev.1, hev.2⟩)⟩
    have hreset : ¬(opField w = 0x83#8 ∧ lvField w = 0 ∧ chField w = 0) :=
      fun hev => h ⟨hz.2, hz.1, .inr (.inr ⟨.inr hev.1, hev.2⟩)⟩
    rw [decodeEvent, if_pos hz, if_neg hbusTimer, if_neg hline, if_neg htick, if_neg hreset]
  · rw [decodeEvent, if_neg hz]

theorem decodeEvent_eq_ok_iff {w : Word} {i : Instr} : decodeEvent w = .ok i ↔ encode i = w ∧ isEventWord w = true := by
  constructor
  · intro h
    by_cases hw : EventFieldsOk w
    · obtain ⟨⟨j, rfl⟩, hev⟩ := exists_encode_eq_of_eventFieldsOk hw
      rw [decodeEvent_encode hev] at h
      cases h
      exact ⟨rfl, hev⟩
    · rw [decodeEvent_invalid hw] at h
      cases h
  · rintro ⟨rfl, h⟩
    exact decodeEvent_encode h

/-- Encoder and decoder are inverse: bit 7 picks the space (R105), and each space's decoder is exact. -/
theorem decode_eq_ok_iff {w : Word} {i : Instr} : decode w = .ok i ↔ encode i = w := by
  cases h : isEventWord w with
  | false => simp [decode, h, decodeCommand_eq_ok_iff]
  | true => simp [decode, h, decodeEvent_eq_ok_iff]

/-- The bytes of an instruction are those of its word (R73), and the decoder takes no more than these four. -/
theorem decodeBytes_encodeBytes (i : Instr) (rest : List Byte) : decodeBytes (encodeBytes i ++ rest) = .ok (i, rest) := by
  have hdecode : decode (encode i) = .ok i := decode_eq_ok_iff.2 rfl
  simp only [encodeBytes, List.cons_append, List.nil_append, decodeBytes, wordOfBytes_bytes, hdecode]

/-- Settles O1. -/
theorem decodeUndoesEncode : Obligations.DecodeUndoesEncode :=
  fun i rest => ⟨decode_eq_ok_iff.2 rfl, decodeBytes_encodeBytes i rest⟩

/-- Settles O2. -/
theorem decodedWordIsTheEncoding : Obligations.DecodedWordIsTheEncoding :=
  fun _ _ => decode_eq_ok_iff.1

/-- Settles O4. -/
theorem exampleWordsDecode : Obligations.ExampleWordsDecode := by
  simp only [Obligations.ExampleWordsDecode, decode_eq_ok_iff]
  decide

/-- The OP values at which CMD writes decode (R104, R105). -/
theorem exists_decodeCommand_iff {w : Word} : (∃ i, decodeCommand w = .ok i) ↔ opField w ∈ commandOps := by
  constructor
  · rintro ⟨i, h⟩
    by_contra hop
    rw [decodeCommand_illegal hop] at h
    cases h
  · intro hop
    obtain ⟨⟨i, hi⟩, hev⟩ := exists_encode_eq_of_op hop
    exact ⟨i, decodeCommand_eq_ok_iff.2 ⟨hi, hev⟩⟩

theorem exists_decodeEvent_iff {w : Word} : (∃ i, decodeEvent w = .ok i) ↔ EventFieldsOk w := by
  constructor
  · rintro ⟨i, h⟩
    by_contra hw
    rw [decodeEvent_invalid hw] at h
    cases h
  · intro hw
    obtain ⟨⟨i, hi⟩, hev⟩ := exists_encode_eq_of_eventFieldsOk hw
    exact ⟨i, decodeEvent_eq_ok_iff.2 ⟨hi, hev⟩⟩

theorem opField_eq_iff {w : Word} {op : Byte} : opField w = op ↔ w.toNat % 256 = op.toNat := by
  rw [← toNat_opField, BitVec.toNat_inj]

theorem opField_mem_commandOps_iff {w : Word} : opField w ∈ commandOps ↔
    w.toNat % 256 ∈ [0x00, 0x01, 0x02, 0x03, 0x04, 0x10, 0x11, 0x12, 0x13, 0x14, 0x15] := by
  rw [← toNat_opField]
  exact (List.mem_map_of_injective fun _ _ => BitVec.eq_of_toNat_eq).symm

theorem lvField_eq_zero_iff {w : Word} : lvField w = 0 ↔ w.getLsbD 8 = false := by
  have hbit : ∀ l : BitVec 1, l = 0 ↔ l.getLsbD 0 = false := by decide
  rw [hbit, lvField, BitVec.getLsbD_extractLsb']
  simp

/-- Settles O3. -/
theorem whichWordsDecode : Obligations.WhichWordsDecode := by
  refine ⟨fun w => exists_decodeCommand_iff.trans opField_mem_commandOps_iff, fun w => exists_decodeEvent_iff.trans ?_⟩
  simp only [EventFieldsOk, opField_eq_iff, lvField_eq_zero_iff]
  rfl

theorem exists_decodeCommand_nop_iff {w : Word} : (∃ f, decodeCommand w = .ok (.nop f)) ↔ opField w = 0x00 := by
  constructor
  · rintro ⟨f, h⟩
    obtain ⟨rfl, -⟩ := decodeCommand_eq_ok_iff.1 h
    exact opField_commandWord _ _
  · intro hop
    refine ⟨cmdFields w, decodeCommand_eq_ok_iff.2 ⟨?_, by simp [isEventWord, hop]⟩⟩
    have hw := commandWord_fields w
    rwa [hop] at hw

end Sys2Proof

/-! PROOFS. From the word to the step: what a CMD write and an event word do (30_encoding.md R101, R105, R106, R110), and
what a failed operand check does (R102). -/

namespace Sys2Proof.Machine

open Sys2Proof

/-- A CMD write is carried out on the state with the write gone from the inputs (R101). -/
theorem step_commandWrite {s : State} {w : Word} {rest : List Input} (hs : s.started = true)
    (hin : s.inputs = .write 0x00 4 w :: rest) : step s = commandWrite { s with inputs := rest } w := by
  obtain ⟨hcmd, -⟩ := hostWrite_writable (s := { s with inputs := rest }) w hs
  rw [step_write hin, hcmd]

theorem step_event {s : State} {w : Word} {rest : List Input} (hin : s.inputs = .event w :: rest) :
    step s = eventStep { s with inputs := rest } w := by
  rw [step, nextStep, hin]
  rfl

/-- Settles O5. -/
theorem stepRunsTheDecodedWord : Obligations.StepRunsTheDecodedWord := by
  constructor
  · intro s w i rest hs hin hi
    rw [step_commandWrite hs hin, commandWrite_ok hi]
  · intro s w i rest hin hi
    rw [step_event hin, eventStep, hi]

theorem commandWrite_illegal {s : State} {w : Word} (hop : opField w ∉ commandOps) :
    commandWrite s w = .next (s.raiseErr .illegalCmd) := by
  rw [commandWrite, decodeCommand_illegal hop]

/-- Settles O6: no OP of the two ranges is a command's. -/
theorem illegalOpSetsIllegalCmdOnly : Obligations.IllegalOpSetsIllegalCmdOnly := by
  intro s w rest hs hin hrange
  have hop : opField w ∉ commandOps := by
    rw [opField_mem_commandOps_iff]
    simp only [List.mem_cons, List.not_mem_nil, or_false]
    omega
  rw [step_commandWrite hs hin, commandWrite_illegal hop]
  rfl

/-- Settles O12. -/
theorem nopChangesNothing : Obligations.NopChangesNothing :=
  ⟨fun _ => exists_decodeCommand_nop_iff.trans opField_eq_iff, fun _ _ hs => whenStarted_started hs⟩

/-! The operand forms accept only what `WellFormed` accepts: R102's checks, told twice in the model, agree. -/

theorem wellFormed_of_actOperand {cfg : Config} {f : CmdFields} {i : Fin 8} (h : actOperand f = some i) :
    WellFormed cfg (.wpEnq f) = true ∧ WellFormed cfg (.wpClear f) = true := by
  obtain ⟨ha, hb, hch, hrsv⟩ := actOperand_eq_some.1 h
  simp [WellFormed, hb, hch, hrsv]
  omega

theorem wellFormed_of_maskOperand {cfg : Config} {f : CmdFields} {m : BitVec 2} (h : maskOperand f = some m) :
    WellFormed cfg (.moveStart f) = true := by
  obtain ⟨ha, hb, hch, hrsv⟩ := maskOperand_eq_some.1 h
  simp [WellFormed, hb, hch, hrsv]
  omega

theorem wellFormed_of_armOperand {cfg : Config} {f : CmdFields} {a : Fin 2} (h : armOperand f = some a) :
    WellFormed cfg (.moveQuery f) = true := by
  obtain ⟨ha, hb, hch, hrsv⟩ := armOperand_eq_some.1 h
  simp [WellFormed, hb, hch, hrsv]
  omega

theorem wellFormed_of_servoPosOperand {cfg : Config} {f : CmdFields} {x : (Fin 3 × Fin 4) × Byte}
    (h : servoPosOperand cfg f = some x) : WellFormed cfg (.modServoPos f) = true := by
  obtain ⟨hch, hc, ha, hrsv, hb, -⟩ := servoPosOperand_eq_some.1 h
  simp [WellFormed, chainOk, hrsv]
  omega

theorem wellFormed_of_servoColorOperand {cfg : Config} {f : CmdFields} {x : (Fin 3 × Fin 4) × Byte}
    (h : servoColorOperand cfg f = some x) : WellFormed cfg (.modServoColor f) = true := by
  obtain ⟨hch, hc, ha, hrsv, hlo, hhi, -⟩ := servoColorOperand_eq_some.1 h
  simp [WellFormed, chainOk, hrsv]
  omega

theorem wellFormed_of_chainSlotOnlyOperand {cfg : Config} {f : CmdFields} {x : Fin 3 × Fin 4}
    (h : chainSlotOnlyOperand cfg f = some x) :
    WellFormed cfg (.modServoReadout f) = true ∧ WellFormed cfg (.modQueryPos f) = true := by
  obtain ⟨hch, hc, ha, hrsv, hb⟩ := chainSlotOnlyOperand_eq_some.1 h
  simp [WellFormed, chainOk, hb, hrsv]
  omega

theorem wellFormed_of_chainOperand {cfg : Config} {f : CmdFields} {c : Fin 3} (h : chainOperand cfg f = some c) :
    WellFormed cfg (.modBusInit f) = true := by
  obtain ⟨hch, hc, ha, hb, hrsv⟩ := chainOperand_eq_some.1 h
  simp [WellFormed, chainOk, ha, hb, hrsv]
  omega

theorem wellFormed_of_ledOperand {cfg : Config} {f : CmdFields} {arg0 : Word} {x : Fin 3 × LedFields}
    (h : ledOperand cfg f arg0 = some x) : WellFormed cfg (.modLed f) = true ∧ arg0 &&& ~~~0x00007777#32 = 0 := by
  obtain ⟨hch, hc, ha, hb, hrsv, harg0, -⟩ := ledOperand_eq_some.1 h
  exact ⟨wellFormed_of_chainOperand (chainOperand_eq_some.2 ⟨hch, hc, ha, hb, hrsv⟩), harg0⟩

/-- A command whose operand form accepts nothing raises BAD_OPERAND and does nothing else (R102). -/
theorem command_badOperand {α : Type} {s : State} {ops : Option α} {eff : α → State} (hs : s.started = true)
    (hops : ∀ x, ops ≠ some x) : command s ops eff = .next { s with err := s.err ||| 0x00000002 } := by
  rw [Option.eq_none_iff_forall_ne_some.2 hops, command_none hs]
  rfl

/-- R102, command by command: no operand form accepts what `WellFormed` rejects. -/
theorem exec_badOperand {i : Instr} {s : State} (hcmd : (opField (encode i)).toNat < 0x80) (hs : s.started = true)
    (hwf : ¬ WellFormed s.cfg i = true) : exec i s = .next { s with err := s.err ||| 0x00000002 } := by
  cases i with
  | nop => exact absurd rfl hwf
  | wpEnq f => exact command_badOperand hs fun _ hx => hwf (wellFormed_of_actOperand hx).1
  | wpClear f => exact command_badOperand hs fun _ hx => hwf (wellFormed_of_actOperand hx).2
  | moveStart f => exact command_badOperand hs fun _ hx => hwf (wellFormed_of_maskOperand hx)
  | moveQuery f => exact command_badOperand hs fun _ hx => hwf (wellFormed_of_armOperand hx)
  | modServoPos f => exact command_badOperand hs fun _ hx => hwf (wellFormed_of_servoPosOperand hx)
  | modServoColor f => exact command_badOperand hs fun _ hx => hwf (wellFormed_of_servoColorOperand hx)
  | modServoReadout f => exact command_badOperand hs fun _ hx => hwf (wellFormed_of_chainSlotOnlyOperand hx).1
  | modLed f => exact command_badOperand hs fun _ hx => hwf (wellFormed_of_ledOperand hx).1
  | modQueryPos f => exact command_badOperand hs fun _ hx => hwf (wellFormed_of_chainSlotOnlyOperand hx).2
  | modBusInit f => exact command_badOperand hs fun _ hx => hwf (wellFormed_of_chainOperand hx)
  | busTimer | line | tick | reset => simp [encode] at hcmd

/-- Settles O7; MOD_LED's operand form checks ARG0 too (R184). -/
theorem failedCheckSetsBadOperandOnly : Obligations.FailedCheckSetsBadOperandOnly := by
  constructor
  · intro i s hcmd hs hwf
    exact exec_badOperand hcmd hs (ne_true_of_eq_false hwf)
  · intro f s hs harg0
    exact command_badOperand hs fun _ hx => harg0 (wellFormed_of_ledOperand hx).2

end Sys2Proof.Machine

/-! PROOFS. The events of one chain (41_module_bus.md R130, R150): BUS_TIMER and LINE are one update of that chain, and read
nothing else of the state than its parameters, its time and the start of the run. -/

namespace Sys2Proof.Machine

open Sys2Proof

theorem exec_busTimer_next_iff {s s' : State} {c : Fin 3} :
    exec (busTimerOf c) s = .next s' ↔ s.BusDue c ∧ s' = s.updChain c fun x => x.onTimer s.cfg s.t := by
  constructor
  · intro h
    cases (exec_next h).1 with
    | badOperand _ hop => simp [encode] at hop
    | busTimer _ c' hc hdue =>
      obtain ⟨hcc, -⟩ := chainIndex_eq_some.1 hc
      obtain rfl : c' = c := Fin.ext (by rw [← hcc, BitVec.toNat_ofNat]; omega)
      exact ⟨hdue, rfl⟩
  · rintro ⟨⟨hs, hc, ht⟩, rfl⟩
    exact (onChain_some hs (chainIndex_ofNat hc)).trans (atDeadline_due ht)

theorem exec_line_next_iff {s s' : State} {c : Fin 3} {v : Bool} :
    exec (lineOf c v) s = .next s' ↔
      s.started = true ∧ c.val < s.cfg.nChains.toNat ∧ s' = s.updChain c fun x => x.onLine s.cfg s.t v := by
  constructor
  · intro h
    obtain ⟨hs, c', hc', heff⟩ := onChain_next h
    obtain ⟨hcc, hc⟩ := chainIndex_eq_some.1 hc'
    obtain rfl : c' = c := Fin.ext (by rw [← hcc, BitVec.toNat_ofNat]; omega)
    exact ⟨hs, hc, (Host.Outcome.next.inj heff).symm⟩
  · rintro ⟨hs, hc, rfl⟩
    exact onChain_some hs (chainIndex_ofNat hc)

/-- What the handlers make of chain `c` is all that BUS_TIMER(c) does. -/
theorem exec_busTimer {s : State} {c : Fin 3} {ch : Chain} (hdue : s.BusDue c)
    (h : s.chains[c].onTimer s.cfg s.t = ch) :
    exec (busTimerOf c) s = .next { s with chains := s.chains.set c ch } :=
  h ▸ exec_busTimer_next_iff.2 ⟨hdue, rfl⟩

/-- What `onLine` makes of chain `c` is all that LINE(c, v) does. -/
theorem exec_line {s : State} {c : Fin 3} {v : Bool} {ch : Chain} (hs : s.started = true)
    (hc : c.val < s.cfg.nChains.toNat) (h : s.chains[c].onLine s.cfg s.t v = ch) :
    exec (lineOf c v) s = .next { s with chains := s.chains.set c ch } :=
  h ▸ exec_line_next_iff.2 ⟨hs, hc, rfl⟩

/-- The frame of an update of chain `c`, and that the chain it makes depends on chain `c` alone. -/
theorem State.updChain_independent {s₁ s₂ : State} {c : Fin 3} (f : Chain → Chain)
    (h : s₁.chains[c] = s₂.chains[c]) :
    (∀ c' : Fin 3, c' ≠ c → (s₁.updChain c f).chains[c'] = s₁.chains[c']) ∧
      ({ s₁.updChain c f with chains := s₁.chains } : State) = s₁ ∧
      (s₂.updChain c f).chains[c] = (s₁.updChain c f).chains[c] := by
  refine ⟨fun c' hc => s₁.updChain_other f hc.symm, rfl, ?_⟩
  rw [s₁.updChain_same, s₂.updChain_same, h]

/-- Settles O33: both events are updates of the chain. -/
theorem chainsAreIndependent : Obligations.ChainsAreIndependent := by
  intro i c s₁ s₂ s₁' hi hcfg ht hstarted hch h
  obtain rfl | ⟨v, rfl⟩ := hi
  · obtain ⟨hdue, rfl⟩ := exec_busTimer_next_iff.1 h
    obtain ⟨hothers, hframe, hsame⟩ := State.updChain_independent (fun x => x.onTimer s₁.cfg s₁.t) hch
    have hdue₂ : s₂.BusDue c := by rwa [State.BusDue, ← hcfg, ← ht, ← hstarted, ← hch]
    exact ⟨hothers, hframe, _, exec_busTimer_next_iff.2 ⟨hdue₂, rfl⟩, by rw [← hsame, hcfg, ht]⟩
  · obtain ⟨hs, hc, rfl⟩ := exec_line_next_iff.1 h
    obtain ⟨hothers, hframe, hsame⟩ := State.updChain_independent (fun x => x.onLine s₁.cfg s₁.t v) hch
    exact ⟨hothers, hframe, _, exec_line_next_iff.2 ⟨hstarted ▸ hs, hcfg ▸ hc, rfl⟩, by rw [← hsame, hcfg, ht]⟩

/-! ### The line (R150, R151) -/

theorem Chain.onLine_edge {ch : Chain} (cfg : Config) (t : Nat) (hin : ch.lineIn = false) (he : ch.edgeArmed = true) :
    ch.onLine cfg t true =
      { ch with lineIn := true, timeoutFlag := false, edgeArmed := false, busDeadline := t + cfg.tSample } :=
  if_pos ⟨hin, rfl, he⟩

theorem Chain.onLine_noEdge {ch : Chain} (cfg : Config) (t : Nat) {v : Bool}
    (h : ¬(ch.lineIn = false ∧ v = true ∧ ch.edgeArmed = true)) : ch.onLine cfg t v = { ch with lineIn := v } :=
  if_neg h

/-- Settles O32. -/
theorem lineChangeAndEdgeAction : Obligations.LineChangeAndEdgeAction := by
  refine ⟨fun c v => decodeEvent_eq_ok_iff.2 ?_, fun s c v hs hc => ⟨?_, fun h => ?_⟩⟩
  · revert c v
    decide
  · rintro hin rfl he
    exact exec_line hs hc (Chain.onLine_edge _ _ hin he)
  · exact exec_line hs hc (Chain.onLine_noEdge _ _ h)

end Sys2Proof.Machine

/-! PROOFS. The handlers of the bus timer, phase by phase (41_module_bus.md sections 2 to 4). -/

namespace Sys2Proof.Machine

open Sys2Proof

/-! ### Which handler runs (R130) -/

theorem Chain.onTimer_start {ch : Chain} (h : ch.phase = .start) (cfg : Config) (t : Nat) :
    ch.onTimer cfg t = ch.onStart cfg t := by
  rw [Chain.onTimer, h]

theorem Chain.onTimer_data {ch : Chain} (h : ch.phase = .data) (cfg : Config) (t : Nat) :
    ch.onTimer cfg t = ch.onData cfg t := by
  rw [Chain.onTimer, h]

theorem Chain.onTimer_stop1 {ch : Chain} (h : ch.phase = .stop1) (cfg : Config) (t : Nat) :
    ch.onTimer cfg t = ch.onStop1 cfg t := by
  rw [Chain.onTimer, h]

theorem Chain.onTimer_stop2 {ch : Chain} (h : ch.phase = .stop2) (cfg : Config) (t : Nat) :
    ch.onTimer cfg t = ch.onStop2 cfg t := by
  rw [Chain.onTimer, h]

theorem Chain.onTimer_turn {ch : Chain} (h : ch.phase = .turn) (cfg : Config) (t : Nat) :
    ch.onTimer cfg t = ch.onTurn t := by
  rw [Chain.onTimer, h]

theorem Chain.onTimer_timeout {ch : Chain} (h : ch.phase = .await) (hf : ch.timeoutFlag = true) (cfg : Config)
    (t : Nat) : ch.onTimer cfg t = ch.onTimeout cfg t := by
  rw [Chain.onTimer, h]
  exact if_pos hf

theorem Chain.onTimer_sample {ch : Chain} (h : ch.phase = .await) (hf : ch.timeoutFlag = false) (cfg : Config)
    (t : Nat) : ch.onTimer cfg t = ch.onSample cfg t := by
  rw [Chain.onTimer, h]
  exact if_neg (ne_true_of_eq_false hf)

theorem Chain.onTimer_complete {ch : Chain} (h : ch.phase = .complete) (cfg : Config) (t : Nat) :
    ch.onTimer cfg t = ch.onComplete cfg t := by
  rw [Chain.onTimer, h]

/-! ### START (R131, R136) -/

/-- The high nibble of 17 * x modulo 256 is the sum of the nibbles of x. -/
theorem mul_seventeen_high_nibble (x : Nat) : (x + x * 2 ^ 4 % 2 ^ 8) % 2 ^ 8 / 2 ^ 4 = (x / 16 + x % 16) % 16 := by
  have hnibbles : (x + x * 2 ^ 4 % 2 ^ 8) % 2 ^ 8 = 2 ^ 4 * ((x / 16 + x % 16) % 16) + x % 16 := by omega
  rw [hnibbles, Nat.mul_add_div (by decide)]
  omega

/-- Settles O31: the checksum byte is the high nibble of 17 * sum, the slot below it. -/
theorem checksumClosedForm : Obligations.ChecksumClosedForm := by
  intro sum slot
  have hmask : ∀ x : Byte, x &&& (0xF0 : Byte) = x >>> 4 <<< 4 := by decide
  have hnoop : sum >>> 8 = 0#8 := BitVec.ushiftRight_eq_zero le_rfl
  have hslot : (BitVec.ofNat 8 slot.val).toNat = slot.val := by rw [BitVec.toNat_ofNat]; omega
  have hhigh : ((sum + sum <<< 4) >>> 4 <<< 4).toNat = ((sum.toNat / 16 + sum.toNat % 16) % 16) <<< 4 := by
    simp only [BitVec.toNat_shiftLeft, BitVec.toNat_ushiftRight, BitVec.toNat_add, Nat.shiftLeft_eq,
      Nat.shiftRight_eq_div_pow, mul_seventeen_high_nibble]
    omega
  rw [checksumByte, hnoop, BitVec.add_zero, hmask, BitVec.toNat_or, hslot, hhigh,
    ← Nat.shiftLeft_add_eq_or_of_lt (by omega), Nat.shiftLeft_eq]

/-- The sum that START leaves for the next byte (R131). -/
def Chain.sumAfterStart (ch : Chain) : Byte :=
  if ch.byteIndex.val = 0 then 0x00 else if ch.byteIndex.val ≤ 4 then ch.cs + ch.frameByte else ch.frameByte

theorem Chain.onStart_eq (ch : Chain) (cfg : Config) (t : Nat) :
    ch.onStart cfg t =
      { ch with
        lineDir := .output, lineOut := false, shiftReg := ch.frameByte, cs := ch.sumAfterStart, bitMask := 0x01
        phase := .data, busDeadline := t + cfg.tBit } :=
  rfl

/-- Byte 0 is the header and clears the sum. -/
theorem Chain.frameByte_header {ch : Chain} (h : ch.byteIndex.val = 0) : ch.frameByte = 0xFF ∧ ch.sumAfterStart = 0x00 :=
  ⟨if_pos h, if_pos h⟩

/-- Bytes 1 to 4 are the pending bytes of the slots and add to the sum. -/
theorem Chain.frameByte_data {ch : Chain} {k : Fin 4} (h : ch.byteIndex.val = k.val + 1) :
    ch.frameByte = ch.slots[k].pending ∧ ch.sumAfterStart = ch.cs + ch.slots[k].pending := by
  have hle : ch.byteIndex.val ≤ 4 := by omega
  have hbyte : ch.frameByte = ch.slots[k].pending := by simp [Chain.frameByte, h]
  refine ⟨hbyte, ?_⟩
  rw [← hbyte, Chain.sumAfterStart, if_neg (by omega), if_pos hle]

/-- Byte 5 is the checksum and replaces the sum. -/
theorem Chain.frameByte_checksum {ch : Chain} (h : ch.byteIndex.val = 5) :
    ch.frameByte = checksumByte ch.cs ch.slotIndex ∧ ch.sumAfterStart = ch.frameByte := by
  simp [Chain.frameByte, Chain.sumAfterStart, h]

/-- Settles O23. -/
theorem startLatchesTheFrameByte : Obligations.StartLatchesTheFrameByte := by
  intro s c hdue hp
  refine ⟨s.chains[c].frameByte, s.chains[c].sumAfterStart, exec_busTimer hdue (Chain.onTimer_start hp _ _),
    Chain.frameByte_header, fun k hk => ?_, fun h5 => ?_⟩
  · obtain ⟨hbyte, hsum⟩ := Chain.frameByte_data hk
    exact ⟨hbyte, by rw [hsum, hbyte, BitVec.toNat_add]⟩
  · obtain ⟨hbyte, hsum⟩ := Chain.frameByte_checksum h5
    exact ⟨by rw [hbyte, checksumClosedForm], hsum⟩

/-! ### DATA (R134) -/

theorem twoPow_shiftLeft_one (n : Nat) : BitVec.twoPow 8 n <<< 1 = BitVec.twoPow 8 (n + 1) := by
  rw [BitVec.twoPow_eq, BitVec.twoPow_eq, BitVec.shiftLeft_add]

theorem twoPow_eq_last_iff (n : Fin 8) : BitVec.twoPow 8 n.val = 0x80 ↔ n.val = 7 := by
  revert n
  decide

/-- A mask of bit `n` picks bit `n`. -/
theorem and_twoPow_ne_zero (x : Byte) (n : Fin 8) : (x &&& BitVec.twoPow 8 n.val != 0) = x.getLsbD n.val := by
  have hpos : BitVec.twoPow 8 n.val ≠ 0 := by
    revert n
    decide
  rw [BitVec.and_twoPow]
  cases x.getLsbD n.val with
  | false => rfl
  | true => exact bne_iff_ne.2 hpos

theorem Chain.onData_bit {ch : Chain} {n : Fin 8} (h : ch.bitMask = BitVec.twoPow 8 n.val) (cfg : Config) (t : Nat) :
    ch.onData cfg t =
      { ch with
        lineOut := ch.shiftReg.getLsbD n.val, bitMask := BitVec.twoPow 8 (n.val + 1)
        phase := if n.val = 7 then .stop1 else ch.phase, busDeadline := t + cfg.tBit } := by
  simp only [Chain.onData, h, twoPow_shiftLeft_one, twoPow_eq_last_iff, and_twoPow_ne_zero]
  rfl

/-- Settles O24. -/
theorem dataDrivesTheMaskedBit : Obligations.DataDrivesTheMaskedBit := by
  intro s c hdue hp n hn
  have hmask : s.chains[c].bitMask = BitVec.twoPow 8 n.val :=
    BitVec.eq_of_toNat_eq (by rw [hn, BitVec.toNat_twoPow_of_lt n.isLt])
  have hnext : BitVec.twoPow 8 (n.val + 1) = BitVec.ofNat 8 (2 ^ (n.val + 1)) :=
    BitVec.eq_of_toNat_eq (by rw [BitVec.toNat_twoPow, BitVec.toNat_ofNat])
  exact exec_busTimer hdue (by rw [Chain.onTimer_data hp, Chain.onData_bit hmask, hnext, hp])

/-! ### The stop bits and the turnaround (R137 to R139) -/

/-- Settles O25. -/
theorem firstStopBitDrivesHigh : Obligations.FirstStopBitDrivesHigh :=
  fun _ _ hdue hp => exec_busTimer hdue (Chain.onTimer_stop1 hp _ _)

theorem Chain.onStop2_next {ch : Chain} {k : Fin 6} (hk : k.val = ch.byteIndex.val + 1) (cfg : Config) (t : Nat) :
    ch.onStop2 cfg t =
      { ch with lineOut := true, byteIndex := k, phase := .start, busDeadline := t + cfg.tBit } := by
  have hlt : ch.byteIndex.val < 5 := by omega
  have hnext : k = ⟨ch.byteIndex.val + 1, by omega⟩ := Fin.ext hk
  rw [hnext]
  exact congrArg (Chain.arm · t cfg.tBit) (dif_pos hlt)

theorem Chain.onStop2_last {ch : Chain} (h : ch.byteIndex.val = 5) (cfg : Config) (t : Nat) :
    ch.onStop2 cfg t = { ch with lineOut := true, phase := .turn, busDeadline := t + cfg.tBit } := by
  have hge : ¬ ch.byteIndex.val < 5 := by omega
  exact congrArg (Chain.arm · t cfg.tBit) (dif_neg hge)

/-- Settles O26. -/
theorem secondStopBitLeadsOn : Obligations.SecondStopBitLeadsOn := by
  intro s c hdue hp
  refine ⟨fun k _ hk => exec_busTimer hdue ?_, fun h5 => exec_busTimer hdue ?_⟩
  · rw [Chain.onTimer_stop2 hp, Chain.onStop2_next hk]
  · rw [Chain.onTimer_stop2 hp, Chain.onStop2_last h5]

/-- Settles O27. -/
theorem turnOpensTheFirstWindow : Obligations.TurnOpensTheFirstWindow :=
  fun _ _ hdue hp => exec_busTimer hdue (Chain.onTimer_turn hp _ _)

/-! ### AWAIT (R141, R142) -/

theorem slotIndex_succ_eq {i k : Fin 4} (h : k.val = (i.val + 1) % 4) : i + 1 = k :=
  Fin.ext (h ▸ rfl)

/-- Settles O28. -/
theorem timeoutEndsTheCycle : Obligations.TimeoutEndsTheCycle := by
  intro s c hdue hp hf k hk
  exact exec_busTimer hdue (by rw [Chain.onTimer_timeout hp hf, ← slotIndex_succ_eq hk]; rfl)

/-- The response byte with the bit that is sampled now (R142). -/
def Chain.sampledByte (ch : Chain) : Byte := if ch.lineIn then ch.shiftReg ||| ch.bitMask else ch.shiftReg

theorem Chain.onSample_more {ch : Chain} (h : ch.bitMask ≠ 0x80) (cfg : Config) (t : Nat) :
    ch.onSample cfg t =
      { ch with
        shiftReg := ch.sampledByte, bitMask := ch.bitMask <<< 1, timeoutFlag := true, edgeArmed := true
        busDeadline := t + 1500 } :=
  if_pos h

theorem Chain.onSample_last {ch : Chain} (h : ch.bitMask = 0x80) (cfg : Config) (t : Nat) :
    ch.onSample cfg t =
      { ch with shiftReg := ch.sampledByte, bitMask := 0x00, phase := .complete, busDeadline := t + cfg.tBit } := by
  have hmask : ch.bitMask <<< 1 = 0x00 := by rw [h]; rfl
  rw [← hmask]
  exact if_neg (not_not.2 h)

/-- Settles O29. -/
theorem sampleReadsOneResponseBit : Obligations.SampleReadsOneResponseBit := by
  intro s c hdue hp hf
  refine ⟨s.chains[c].sampledByte, fun hin => if_pos hin, fun hin => if_neg (ne_true_of_eq_false hin),
    fun hm => exec_busTimer hdue ?_, fun hm => exec_busTimer hdue ?_⟩
  · rw [Chain.onTimer_sample hp hf, Chain.onSample_more hm]
  · rw [Chain.onTimer_sample hp hf, Chain.onSample_last hm]

/-! ### COMPLETE (R145 to R147) -/

/-- The slots that COMPLETE leaves: those of the interpretation, with the reply noted in the addressed one. -/
def Chain.completedSlots (ch : Chain) : Vector Slot 4 :=
  ((ch.interpret ch.slotIndex ch.shiftReg).updSlot ch.slotIndex fun sl => { sl with lastInput := ch.shiftReg }).slots

theorem Chain.onComplete_eq (ch : Chain) (cfg : Config) (t : Nat) :
    ch.onComplete cfg t =
      { ch with
        slots := ch.completedSlots, lpValid := true, lpSlot := ch.slotIndex, slotIndex := ch.slotIndex + 1
        byteIndex := 0, phase := .start, busDeadline := t + cfg.tBit } := by
  rw [Chain.completedSlots, Chain.onComplete, Chain.interpret_only_slots]
  rfl

theorem Chain.completedSlots_other {ch : Chain} {j : Fin 4} (h : j ≠ ch.slotIndex) :
    ch.completedSlots[j] = (ch.interpret ch.slotIndex ch.shiftReg).slots[j] := by
  rw [Chain.completedSlots, Chain.updSlot_getElem, if_neg h.symm]

theorem Chain.completedSlots_addressed (ch : Chain) :
    ch.completedSlots[ch.slotIndex] =
      { (ch.interpret ch.slotIndex ch.shiftReg).slots[ch.slotIndex] with lastInput := ch.shiftReg } := by
  rw [Chain.completedSlots, Chain.updSlot_getElem, if_pos rfl]

/-- Settles O30. -/
theorem completeInterpretsTheResponse : Obligations.CompleteInterpretsTheResponse := by
  rintro s c k next r hdue hp rfl rfl hnext
  refine ⟨s.chains[c].completedSlots, exec_busTimer hdue ?_, fun j hj => ?_, fun j hj => ?_, ?_⟩
  · rw [Chain.onTimer_complete hp, Chain.onComplete_eq, slotIndex_succ_eq hnext]
  · rw [Chain.completedSlots_other hj.ne, Chain.interpret_slot, if_neg (not_le.2 hj), if_pos hj.ne', ite_self]
  · rw [Chain.completedSlots_other hj.ne', Chain.interpret_slot, if_pos hj.le, if_pos hj.ne]
  · rw [Chain.completedSlots_addressed, Chain.interpret_slot, if_pos le_rfl]
    cases hty : s.chains[c].slots[s.chains[c].slotIndex].mtype with
    | unknown => simp
    | servo => simp
    | led => cases hph : s.chains[c].slots[s.chains[c].slotIndex].ledPhase <;> simp

end Sys2Proof.Machine

/-! PROOFS. The frame on the wire (41_module_bus.md R132, R133): what a chain sends by itself, its timer expiring again and
again, bit by bit, byte by byte. -/

namespace Sys2Proof.Machine

open Sys2Proof

/-! ### One chain by itself -/

/-- The chain after the next expiry of its timer, at its deadline (R130). -/
def Chain.expire (ch : Chain) (cfg : Config) : Chain := ch.onTimer cfg ch.busDeadline

/-- `s` with chain `c` as given. -/
def State.setChain (s : State) (c : Fin 3) (ch : Chain) : State := s.updChain c fun _ => ch

theorem State.setChain_same (s : State) (c : Fin 3) (ch : Chain) : (s.setChain c ch).chains[c] = ch :=
  s.updChain_same c _

theorem State.setChain_self (s : State) (c : Fin 3) : s.setChain c s.chains[c] = s := by
  simp [State.setChain, State.updChain]

theorem State.setChain_setChain (s : State) (c : Fin 3) (ch ch' : Chain) :
    (s.setChain c ch).setChain c ch' = s.setChain c ch' := by
  simp [State.setChain, State.updChain]

/-- A callback is the expiry of the chain's timer, at the chain's deadline. -/
theorem State.callback_eq {s : State} {c : Fin 3} (hs : s.started = true) (hc : c.val < s.cfg.nChains.toNat) :
    s.callback c = some ({ s with t := s.chains[c].busDeadline }.setChain c (s.chains[c].expire s.cfg)) := by
  have hdue : State.BusDue { s with t := s.chains[c].busDeadline } c := ⟨hs, hc, rfl⟩
  rw [State.callback, State.after, exec_busTimer hdue rfl]
  rfl

/-- The chain `ch'` is `ch` after one expiry for each of the levels, each one driving its level and arming T_BIT. -/
inductive Chain.Sends (cfg : Config) : List Bool → Chain → Chain → Prop where
  | nil (ch : Chain) : Chain.Sends cfg [] ch ch
  | cons {v : Bool} {vs : List Bool} {ch ch₁ ch' : Chain} (hnext : ch.expire cfg = ch₁) (hlevel : ch₁.lineOut = v)
      (hdeadline : ch₁.busDeadline = ch.busDeadline + cfg.tBit) (hrest : Chain.Sends cfg vs ch₁ ch') :
      Chain.Sends cfg (v :: vs) ch ch'

theorem Chain.Sends.append {cfg : Config} {vs ws : List Bool} {ch ch' ch'' : Chain} (h : Chain.Sends cfg vs ch ch')
    (h' : Chain.Sends cfg ws ch' ch'') : Chain.Sends cfg (vs ++ ws) ch ch'' := by
  induction h with
  | nil => exact h'
  | cons hnext hlevel hdeadline _ ih => exact .cons hnext hlevel hdeadline (ih h')

theorem Chain.Sends.take {cfg : Config} {vs : List Bool} {ch ch' : Chain} (h : Chain.Sends cfg vs ch ch') (n : Nat) :
    ∃ ch'', Chain.Sends cfg (vs.take n) ch ch'' := by
  induction h generalizing n with
  | nil ch => exact ⟨ch, by rw [List.take_nil]; exact .nil ch⟩
  | @cons _ _ ch _ _ hnext hlevel hdeadline _ ih =>
    cases n with
    | zero => exact ⟨ch, .nil ch⟩
    | succ n =>
      obtain ⟨ch'', h⟩ := ih n
      exact ⟨ch'', .cons hnext hlevel hdeadline h⟩

theorem Chain.Sends.busDeadline {cfg : Config} {vs : List Bool} {ch ch' : Chain} (h : Chain.Sends cfg vs ch ch') :
    ch'.busDeadline = ch.busDeadline + vs.length * cfg.tBit := by
  induction h with
  | nil => simp
  | cons _ _ hdeadline _ ih => rw [ih, hdeadline, List.length_cons, Nat.succ_mul, Nat.add_assoc, Nat.add_comm cfg.tBit]

/-- What a chain sends by itself, its callbacks put on the wire. -/
theorem Chain.Sends.onWire {cfg : Config} {vs : List Bool} {ch ch' : Chain} (h : Chain.Sends cfg vs ch ch') {s : State}
    {c : Fin 3} (hs : s.started = true) (hc : c.val < s.cfg.nChains.toNat) (hcfg : s.cfg = cfg) (hch : s.chains[c] = ch) :
    drivenLevels c vs.length s = vs ∧ ∃ s', afterCallbacks c vs.length s = some s' ∧ s'.chains[c] = ch' := by
  induction h generalizing s with
  | nil => exact ⟨rfl, s, rfl, hch⟩
  | cons hnext hlevel _ _ ih =>
    subst hcfg hch hnext
    obtain ⟨hlevels, s', hafter, hch'⟩ := ih (s := { s with t := s.chains[c].busDeadline }.setChain c _) hs hc rfl
      (State.setChain_same _ _ _)
    refine ⟨?_, s', ?_, hch'⟩
    · rw [List.length_cons, drivenLevels, State.callback_eq hs hc]
      simp only [State.setChain_same, hlevel, hlevels]
    · rw [List.length_cons, afterCallbacks, State.callback_eq hs hc]
      exact hafter

/-! ### One byte (R132) -/

/-- The chain after the last `k` data bits of a byte. -/
def Chain.bitsSent (ch : Chain) (cfg : Config) (k : Nat) : Chain :=
  { ch with
    lineOut := ch.shiftReg.getLsbD 7, bitMask := 0x00, phase := .stop1, busDeadline := ch.busDeadline + k * cfg.tBit }

/-- The last `k + 1` data bits, from bit `n` on. -/
theorem Chain.sends_bits (cfg : Config) {ch : Chain} {n k : Nat} (hn : n + (k + 1) = 8) (hp : ch.phase = .data)
    (hm : ch.bitMask = BitVec.twoPow 8 n) :
    Chain.Sends cfg ((List.range' n (k + 1)).map ch.shiftReg.getLsbD) ch (ch.bitsSent cfg (k + 1)) := by
  induction k generalizing n ch with
  | zero =>
    obtain rfl : n = 7 := by omega
    have hbit := Chain.onData_bit (n := 7) hm cfg ch.busDeadline
    refine .cons ((Chain.onTimer_data hp _ _).trans hbit) rfl rfl ?_
    simp only [Chain.bitsSent, Nat.zero_add, Nat.one_mul]
    exact .nil _
  | succ k ih =>
    have hbit := Chain.onData_bit (n := ⟨n, by omega⟩) hm cfg ch.busDeadline
    rw [if_neg (by simp only; omega)] at hbit
    refine .cons ((Chain.onTimer_data hp _ _).trans hbit) rfl rfl ?_
    have hrest := ih (ch := { ch with
      lineOut := ch.shiftReg.getLsbD n, bitMask := BitVec.twoPow 8 (n + 1), busDeadline := ch.busDeadline + cfg.tBit })
      (n := n + 1) (by omega) hp rfl
    simp only [Chain.bitsSent, Nat.add_assoc, Nat.add_comm cfg.tBit, ← Nat.succ_mul] at hrest
    exact hrest

/-- The chain after the first stop bit of the byte whose START comes next. -/
def Chain.firstStopSent (ch : Chain) (cfg : Config) : Chain :=
  let ch := (ch.onStart cfg ch.busDeadline).bitsSent cfg 8
  ch.onStop1 cfg ch.busDeadline

/-- The chain after the byte whose START comes next. -/
def Chain.byteSent (ch : Chain) (cfg : Config) : Chain :=
  (ch.firstStopSent cfg).onStop2 cfg (ch.firstStopSent cfg).busDeadline

theorem Chain.onStop2_lineOut (ch : Chain) (cfg : Config) (t : Nat) : (ch.onStop2 cfg t).lineOut = true := by
  by_cases hb : ch.byteIndex.val < 5 <;> simp [Chain.onStop2, hb]

theorem Chain.sends_byte (cfg : Config) {ch : Chain} (hp : ch.phase = .start) :
    Chain.Sends cfg (waveform ch.frameByte) ch (ch.byteSent cfg) := by
  have hbits := Chain.sends_bits cfg (ch := ch.onStart cfg ch.busDeadline) (n := 0) (k := 7) rfl rfl rfl
  have hstops : Chain.Sends cfg [true, true] ((ch.onStart cfg ch.busDeadline).bitsSent cfg 8) (ch.byteSent cfg) :=
    .cons (Chain.onTimer_stop1 rfl _ _) rfl rfl
      (.cons (Chain.onTimer_stop2 rfl _ _) (Chain.onStop2_lineOut _ _ _) rfl (.nil _))
  exact .cons (Chain.onTimer_start hp _ _) rfl rfl (hbits.append hstops)

/-- Settles O34: any number of the callbacks is the beginning of what the chain sends. -/
theorem oneByteOnTheWire : Obligations.OneByteOnTheWire := by
  rintro s c b hs hc hp rfl
  have hbyte := Chain.sends_byte s.cfg hp
  refine ⟨(hbyte.onWire hs hc rfl rfl).1, fun n hn => ?_⟩
  obtain ⟨ch', hbits⟩ := hbyte.take n
  have hlen : ((waveform s.chains[c].frameByte).take n).length = n := List.length_take_of_le hn
  obtain ⟨-, s', hafter, hch'⟩ := hbits.onWire hs hc rfl rfl
  rw [hlen] at hafter
  exact ⟨s', hafter, by rw [hch', hbits.busDeadline, hlen]⟩

/-! ### One frame (R133) -/

/-- Before the START of byte `k` of a frame that began in `ch₀`, with the sum of what has been sent. -/
structure Chain.FrameAt (ch₀ : Chain) (k : Nat) (sum : Byte) (ch : Chain) : Prop where
  phase : ch.phase = .start
  byteIndex : ch.byteIndex.val = k
  cs : ch.cs = sum
  slots : ch.slots = ch₀.slots
  slotIndex : ch.slotIndex = ch₀.slotIndex

theorem Chain.FrameAt.byteSent {ch₀ ch : Chain} {k : Nat} {sum : Byte} (h : ch₀.FrameAt k sum ch) (hk : k < 5)
    (cfg : Config) : ch₀.FrameAt (k + 1) ch.sumAfterStart (ch.byteSent cfg) := by
  have hnext : k + 1 = ch.byteIndex.val + 1 := by rw [h.byteIndex]
  rw [Chain.byteSent, Chain.onStop2_next (ch := ch.firstStopSent cfg) (k := ⟨k + 1, by omega⟩) hnext]
  exact ⟨rfl, rfl, rfl, h.slots, h.slotIndex⟩

theorem Chain.FrameAt.sends_header {ch₀ : Chain} {sum : Byte} (h : ch₀.FrameAt 0 sum ch₀) (cfg : Config) :
    Chain.Sends cfg (waveform 0xFF) ch₀ (ch₀.byteSent cfg) ∧ ch₀.FrameAt 1 0x00 (ch₀.byteSent cfg) := by
  obtain ⟨hbyte, hsum⟩ := Chain.frameByte_header h.byteIndex
  exact ⟨hbyte ▸ Chain.sends_byte cfg h.phase, hsum ▸ h.byteSent (by decide) cfg⟩

theorem Chain.FrameAt.sends_data {ch₀ ch : Chain} {k : Fin 4} {sum : Byte} (h : ch₀.FrameAt (k.val + 1) sum ch)
    (cfg : Config) :
    Chain.Sends cfg (waveform ch₀.slots[k].pending) ch (ch.byteSent cfg) ∧
      ch₀.FrameAt (k.val + 2) (sum + ch₀.slots[k].pending) (ch.byteSent cfg) := by
  obtain ⟨hbyte, hsum⟩ := Chain.frameByte_data h.byteIndex
  rw [h.slots] at hbyte hsum
  rw [h.cs] at hsum
  exact ⟨hbyte ▸ Chain.sends_byte cfg h.phase, hsum ▸ h.byteSent (by omega) cfg⟩

theorem Chain.FrameAt.sends_checksum {ch₀ ch : Chain} {sum : Byte} (h : ch₀.FrameAt 5 sum ch) (cfg : Config) :
    Chain.Sends cfg (waveform (checksumByte sum ch₀.slotIndex)) ch (ch.byteSent cfg) := by
  obtain ⟨hbyte, -⟩ := Chain.frameByte_checksum h.byteIndex
  rw [h.cs, h.slotIndex] at hbyte
  exact hbyte ▸ Chain.sends_byte cfg h.phase

theorem Chain.FrameAt.turn {ch₀ ch : Chain} {sum : Byte} (h : ch₀.FrameAt 5 sum ch) (cfg : Config) :
    (ch.byteSent cfg).phase = .turn ∧ (ch.byteSent cfg).byteIndex.val = 5 ∧ (ch.byteSent cfg).lineDir = .output ∧
      (ch.byteSent cfg).slots = ch₀.slots ∧ (ch.byteSent cfg).slotIndex = ch₀.slotIndex := by
  rw [Chain.byteSent, Chain.onStop2_last (ch := ch.firstStopSent cfg) h.byteIndex]
  exact ⟨rfl, h.byteIndex, rfl, h.slots, h.slotIndex⟩

/-- The sum of the four data bytes of a frame (R131). -/
def Chain.frameSum (ch : Chain) : Byte :=
  0x00 + ch.slots[0].pending + ch.slots[1].pending + ch.slots[2].pending + ch.slots[3].pending

/-- The levels of a whole frame. -/
def Chain.frameLevels (ch : Chain) : List Bool :=
  waveform 0xFF ++ waveform ch.slots[0].pending ++ waveform ch.slots[1].pending ++ waveform ch.slots[2].pending
    ++ waveform ch.slots[3].pending ++ waveform (checksumByte ch.frameSum ch.slotIndex)

/-- A frame is its six bytes, one after the other. -/
theorem Chain.sends_frame (cfg : Config) {ch : Chain} (hp : ch.phase = .start) (hb : ch.byteIndex = 0) :
    ∃ ch₅, ch.FrameAt 5 ch.frameSum ch₅ ∧ Chain.Sends cfg ch.frameLevels ch (ch₅.byteSent cfg) := by
  have h₀ : ch.FrameAt 0 ch.cs ch := ⟨hp, by rw [hb]; rfl, rfl, rfl, rfl⟩
  obtain ⟨hsends₀, h₁⟩ := h₀.sends_header cfg
  obtain ⟨hsends₁, h₂⟩ := Chain.FrameAt.sends_data (k := 0) h₁ cfg
  obtain ⟨hsends₂, h₃⟩ := Chain.FrameAt.sends_data (k := 1) h₂ cfg
  obtain ⟨hsends₃, h₄⟩ := Chain.FrameAt.sends_data (k := 2) h₃ cfg
  obtain ⟨hsends₄, h₅⟩ := Chain.FrameAt.sends_data (k := 3) h₄ cfg
  have hdata := (((hsends₀.append hsends₁).append hsends₂).append hsends₃).append hsends₄
  exact ⟨_, h₅, hdata.append (h₅.sends_checksum cfg)⟩

/-- The closed form of the checksum, as a byte (R136). -/
theorem checksumByte_eq (sum : Byte) (slot : Fin 4) :
    checksumByte sum slot = BitVec.ofNat 8 ((sum.toNat / 16 + sum.toNat % 16) % 16 * 16 + slot.val) := by
  rw [← checksumClosedForm, BitVec.ofNat_toNat, BitVec.setWidth_eq]

/-- Settles O35. -/
theorem oneFrameOnTheWire : Obligations.OneFrameOnTheWire := by
  rintro s c sum hs hc hp hb hsum
  have hframeSum : s.chains[c].frameSum.toNat = sum := by
    simp [hsum, Chain.frameSum]
  obtain ⟨ch₅, h₅, hsends⟩ := Chain.sends_frame s.cfg hp hb
  obtain ⟨hlevels, s', hafter, hch'⟩ := hsends.onWire hs hc rfl rfl
  obtain ⟨hphase, hbyteIndex, hdir, hslots, hslotIndex⟩ := h₅.turn s.cfg
  rw [← hframeSum, ← checksumByte_eq]
  refine ⟨hlevels, s', hafter, ?_⟩
  rw [hch']
  exact ⟨hphase, hbyteIndex, hdir, hslots, hslotIndex, hsends.busDeadline⟩

end Sys2Proof.Machine

/-! PROOFS. The reply on the wire (41_module_bus.md R140, R142, R143, R151): a chain with an open window receives eight
bits. -/

namespace Sys2Proof.Machine

open Sys2Proof

/-! ### One bit -/

/-- The chain when the bit is sampled: the edge came at `t`, and the level is now that of the bit. -/
def Chain.atSample (ch : Chain) (cfg : Config) (t : Nat) (v : Bool) : Chain :=
  { ch with lineIn := v }.edgeAction cfg t

/-- The chain after an open window in which the edge came at `t` and the bit was `v`. -/
def Chain.bitReceived (ch : Chain) (cfg : Config) (t : Nat) (v : Bool) : Chain :=
  (ch.atSample cfg t v).onSample cfg (t + cfg.tSample)

theorem Chain.onLine_low_high {ch : Chain} (he : ch.edgeArmed = true) (cfg : Config) (t : Nat) :
    (ch.onLine cfg t false).onLine cfg t true = ch.atSample cfg t true := by
  rw [Chain.onLine_noEdge (v := false) cfg t (by simp)]
  exact Chain.onLine_edge cfg t rfl he

theorem Chain.atSample_onLine_low (ch : Chain) (cfg : Config) (t : Nat) :
    (ch.atSample cfg t true).onLine cfg t false = ch.atSample cfg t false :=
  Chain.onLine_noEdge cfg t (by simp)

theorem Chain.atSample_expire {ch : Chain} (hp : ch.phase = .await) (cfg : Config) (t : Nat) (v : Bool) :
    (ch.atSample cfg t v).expire cfg = ch.bitReceived cfg t v :=
  Chain.onTimer_sample (ch := ch.atSample cfg t v) hp rfl _ _

theorem State.after_line {s : State} {c : Fin 3} (hs : s.started = true) (hc : c.val < s.cfg.nChains.toNat) (v : Bool) :
    s.after (lineOf c v) = some (s.setChain c (s.chains[c].onLine s.cfg s.t v)) := by
  rw [State.after, exec_line hs hc rfl]
  rfl

section
variable {s : State} {c : Fin 3} (hs : s.started = true) (hc : c.val < s.cfg.nChains.toNat)
include hs hc

theorem State.setChain_after_line (ch : Chain) (v : Bool) :
    (s.setChain c ch).after (lineOf c v) = some (s.setChain c (ch.onLine s.cfg s.t v)) := by
  rw [State.after_line (s := s.setChain c ch) hs hc, State.setChain_same, State.setChain_setChain]
  rfl

theorem State.setChain_callback (ch : Chain) :
    (s.setChain c ch).callback c =
      some ({ s with t := ch.busDeadline }.setChain c (ch.expire s.cfg)) := by
  rw [State.callback_eq (s := s.setChain c ch) hs hc, State.setChain_same]
  exact congrArg some (State.setChain_setChain { s with t := ch.busDeadline } c ch _)

/-- The line goes low, the edge comes, the level of the bit follows, and the timer expires. -/
theorem receiveBit_setChain {ch : Chain} (hp : ch.phase = .await) (he : ch.edgeArmed = true) (v : Bool) :
    receiveBit c v (s.setChain c ch) =
      some ({ s with t := s.t + s.cfg.tSample }.setChain c (ch.bitReceived s.cfg s.t v)) := by
  have hlevel : (if v then some (s.setChain c (ch.atSample s.cfg s.t true))
      else (s.setChain c (ch.atSample s.cfg s.t true)).after (lineOf c false)) =
        some (s.setChain c (ch.atSample s.cfg s.t v)) := by
    cases v with
    | true => rfl
    | false => exact (State.setChain_after_line hs hc _ _).trans (by rw [Chain.atSample_onLine_low])
  rw [receiveBit, State.setChain_after_line hs hc, Option.bind_some, State.setChain_after_line hs hc,
    Chain.onLine_low_high he, Option.bind_some, hlevel, Option.bind_some, State.setChain_callback hs hc,
    Chain.atSample_expire hp]
  rfl

end

/-! ### Eight bits -/

/-- An open window for bit `n` of the byte `r`, the bits below it received. -/
structure Chain.Receiving (r : Byte) (n : Nat) (ch : Chain) : Prop where
  phase : ch.phase = .await
  edgeArmed : ch.edgeArmed = true
  bitMask : ch.bitMask = BitVec.twoPow 8 n
  shiftReg : ch.shiftReg = (r.setWidth n).setWidth 8

/-- The byte `r` received, at the instant `t`, on a chain with the slots of `ch₀`. -/
structure Chain.Received (ch₀ : Chain) (cfg : Config) (t : Nat) (r : Byte) (ch : Chain) : Prop where
  phase : ch.phase = .complete
  edgeArmed : ch.edgeArmed = false
  shiftReg : ch.shiftReg = r
  slots : ch.slots = ch₀.slots
  slotIndex : ch.slotIndex = ch₀.slotIndex
  busDeadline : ch.busDeadline = t + cfg.tBit

/-- The sample puts bit `n` above the bits below it. -/
theorem Chain.Receiving.sampledByte {r : Byte} {n : Nat} {ch : Chain} (h : ch.Receiving r n) (cfg : Config) (t : Nat) :
    (ch.atSample cfg t (r.getLsbD n)).sampledByte = (r.setWidth (n + 1)).setWidth 8 := by
  have hsampled : (ch.atSample cfg t (r.getLsbD n)).sampledByte =
      if r.getLsbD n then ch.shiftReg ||| ch.bitMask else ch.shiftReg := rfl
  rw [hsampled, h.bitMask, h.shiftReg]
  cases hbit : r.getLsbD n with
  | true => exact (BitVec.setWidth_setWidth_succ_eq_setWidth_setWidth_or_twoPow_of_getLsbD_true hbit).symm
  | false => exact (BitVec.setWidth_setWidth_succ_eq_setWidth_setWidth_of_getLsbD_false hbit).symm

/-- A bit before the eighth: the next window opens. -/
theorem Chain.Receiving.more {r : Byte} {n : Nat} {ch : Chain} (h : ch.Receiving r n) (hn : n < 7) (cfg : Config)
    (t : Nat) :
    (ch.bitReceived cfg t (r.getLsbD n)).Receiving r (n + 1) ∧ (ch.bitReceived cfg t (r.getLsbD n)).slots = ch.slots ∧
      (ch.bitReceived cfg t (r.getLsbD n)).slotIndex = ch.slotIndex := by
  have hm : ch.bitMask ≠ 0x80 := by
    rw [h.bitMask, ne_eq, twoPow_eq_last_iff ⟨n, by omega⟩]
    exact hn.ne
  have hshift : ch.bitMask <<< 1 = BitVec.twoPow 8 (n + 1) := by rw [h.bitMask, twoPow_shiftLeft_one]
  rw [Chain.bitReceived, Chain.onSample_more (ch := ch.atSample cfg t (r.getLsbD n)) hm]
  exact ⟨⟨h.phase, rfl, hshift, h.sampledByte cfg t⟩, rfl, rfl⟩

/-- The eighth bit. -/
theorem Chain.Receiving.last {r : Byte} {ch : Chain} (h : ch.Receiving r 7) (cfg : Config) (t : Nat) :
    ch.Received cfg (t + cfg.tSample) r (ch.bitReceived cfg t (r.getLsbD 7)) := by
  have hbyte : (ch.atSample cfg t (r.getLsbD 7)).sampledByte = r := by
    rw [h.sampledByte, BitVec.setWidth_eq, BitVec.setWidth_eq]
  rw [Chain.bitReceived, Chain.onSample_last (ch := ch.atSample cfg t (r.getLsbD 7)) h.bitMask]
  exact ⟨rfl, rfl, hbyte, rfl, rfl, rfl⟩

/-- The last `k + 1` bits of a reply, from bit `n` on. -/
theorem receiveBits_setChain {r : Byte} {n k : Nat} (hn : n + (k + 1) = 8) {s : State} {c : Fin 3} {ch : Chain}
    (hs : s.started = true) (hc : c.val < s.cfg.nChains.toNat) (h : ch.Receiving r n) :
    ∃ ch', receiveBits c ((List.range' n (k + 1)).map r.getLsbD) (s.setChain c ch) =
        some ({ s with t := s.t + (k + 1) * s.cfg.tSample }.setChain c ch') ∧
      ch.Received s.cfg (s.t + (k + 1) * s.cfg.tSample) r ch' := by
  induction k generalizing n s ch with
  | zero =>
    obtain rfl : n = 7 := by omega
    refine ⟨ch.bitReceived s.cfg s.t (r.getLsbD 7), ?_, ?_⟩
    · rw [Nat.zero_add, Nat.one_mul, ← receiveBit_setChain hs hc h.phase h.edgeArmed]
      exact Option.bind_fun_some _
    · rw [Nat.zero_add, Nat.one_mul]
      exact h.last s.cfg s.t
  | succ k ih =>
    obtain ⟨hnext, hslots, hslotIndex⟩ := h.more (by omega) s.cfg s.t
    obtain ⟨ch', hrest, hreceived⟩ := ih (n := n + 1) (s := { s with t := s.t + s.cfg.tSample }) (by omega) hs hc hnext
    have ht : s.t + s.cfg.tSample + (k + 1) * s.cfg.tSample = s.t + (k + 1 + 1) * s.cfg.tSample := by
      rw [Nat.succ_mul (k + 1), Nat.add_assoc, Nat.add_comm s.cfg.tSample]
    rw [ht] at hrest hreceived
    refine ⟨ch', ?_, hreceived.phase, hreceived.edgeArmed, hreceived.shiftReg, hreceived.slots.trans hslots,
      hreceived.slotIndex.trans hslotIndex, hreceived.busDeadline⟩
    rw [← hrest, List.range'_succ, List.map_cons, receiveBits, receiveBit_setChain hs hc h.phase h.edgeArmed]
    rfl

/-- Settles O36. -/
theorem oneReplyIsReceived : Obligations.OneReplyIsReceived := by
  intro s c r hs hc hp he hm hr
  have hopen : s.chains[c].Receiving r 0 := ⟨hp, he, hm, by rw [hr, BitVec.of_length_zero (x := r.setWidth 0)]; rfl⟩
  obtain ⟨ch', hreply, hreceived⟩ := receiveBits_setChain (n := 0) (k := 7) rfl hs hc hopen
  rw [State.setChain_self] at hreply
  refine ⟨_, hreply, ?_⟩
  rw [State.setChain_same]
  exact ⟨hreceived.phase, hreceived.shiftReg, hreceived.edgeArmed, hreceived.slots, hreceived.slotIndex, rfl,
    hreceived.busDeadline⟩

end Sys2Proof.Machine

/-! PROOFS. The blinking of a Led slot (41_module_bus.md R149). -/

namespace Sys2Proof.Machine

open Sys2Proof

/-- Slot `k` is a Led that shows byte `p` of the chain's pair. -/
structure Chain.ShowsLed (ch : Chain) (k : Fin 4) (p : Bool) : Prop where
  mtype : ch.slots[k].mtype = .led
  ledPhase : ch.slots[k].ledPhase = p
  pending : ch.slots[k].pending = ch.ledPair p

theorem Chain.interpret_ledPair (ch : Chain) (k : Fin 4) (r : Byte) (p : Bool) :
    (ch.interpret k r).ledPair p = ch.ledPair p := by
  rw [Chain.interpret_only_slots]
  rfl

theorem Chain.ShowsLed.interpret {ch : Chain} {k : Fin 4} {p : Bool} (h : ch.ShowsLed k p) {r : Byte} (hr : r ≠ 0x00) :
    (ch.interpret k r).ShowsLed k (!p) := by
  have hslot : (ch.interpret k r).slots[k] = { ch.slots[k] with ledPhase := !p, pending := ch.ledPair !p } := by
    rw [Chain.interpret_slot, if_neg hr, if_neg (not_not.2 rfl), if_pos h.mtype, h.ledPhase]
  exact ⟨hslot ▸ h.mtype, by rw [hslot], by rw [hslot, Chain.interpret_ledPair]⟩

/-- Replies flip the byte shown, once each, and leave the pair. -/
theorem Chain.ShowsLed.foldl {k : Fin 4} {rs : List Byte} (hrs : ∀ r ∈ rs, r ≠ 0x00) {ch : Chain} {p : Bool}
    (h : ch.ShowsLed k p) :
    (rs.foldl (fun x r => x.interpret k r) ch).ShowsLed k (rs.length.bodd ^^ p) ∧
      ∀ q, (rs.foldl (fun x r => x.interpret k r) ch).ledPair q = ch.ledPair q := by
  induction rs generalizing ch p with
  | nil => exact ⟨by simpa using h, fun _ => rfl⟩
  | cons r rs ih =>
    obtain ⟨hr, hrs⟩ := List.forall_mem_cons.1 hrs
    obtain ⟨hshows, hpair⟩ := ih hrs (h.interpret hr)
    refine ⟨?_, fun q => (hpair q).trans (ch.interpret_ledPair k r q)⟩
    rw [List.foldl_cons, List.length_cons, Nat.bodd_succ, Bool.not_xor, ← Bool.xor_not]
    exact hshows

/-- Settles O37. -/
theorem ledSlotAlternates : Obligations.LedSlotAlternates := by
  intro ch k rs hrs hled hphase hpending
  obtain ⟨hshows, hpair⟩ := Chain.ShowsLed.foldl hrs ⟨hled, hphase, hpending⟩
  refine ⟨hshows.mtype, ?_⟩
  rw [hshows.pending, hpair, Bool.xor_false, Nat.mod_two_of_bodd]
  cases rs.length.bodd with
  | false => rfl
  | true => rfl

end Sys2Proof.Machine

/-! PROOFS. The ModuleRegistry commands (42_module_commands.md R180 to R187): each is one update of the addressed chain, or
a write of RESULT, and happens on the operands that its operand form accepts. -/

namespace Sys2Proof.Machine

open Sys2Proof

/-! ### What the commands share -/

/-- A command whose words carry OP `op` is what every word with that OP decodes to (R100, R101). -/
theorem encodedAs_of_encode {op : Byte} {mk : CmdFields → Instr} (hop : op.toNat < 0x80)
    (henc : ∀ f, encode (mk f) = commandWord op f) : EncodedAs op.toNat mk := by
  intro w hw
  obtain rfl : opField w = op := opField_eq_iff.2 hw
  have hevent : isEventWord w = false := decide_eq_false (by omega)
  exact decodeCommand_eq_ok_iff.2 ⟨(henc _).trans (commandWord_fields w), hevent⟩

/-- A command whose operand form accepts has its effect (R101). -/
theorem command_goodOperand {α : Type} {s s' : State} {ops : Option α} {eff : α → State} {x : α} (hs : s.started = true)
    (hops : ops = some x) (heff : eff x = s') : command s ops eff = .next s' := by
  rw [hops, command_some hs, heff]

theorem State.updChain_eq_setChain {s : State} {c : Fin 3} {f : Chain → Chain} {ch : Chain} (h : f s.chains[c] = ch) :
    s.updChain c f = s.setChain c ch := by
  rw [State.setChain, State.updChain, State.updChain, h]

/-! ### Servo position and colour (R180 to R182) -/

theorem clampPos_eq (pos : Byte) :
    clampPos pos = if pos.toNat < 0x18 then 0x18 else if 0xE8 < pos.toNat then 0xE8 else pos := by
  unfold clampPos
  split
  next hlow => rw [max_eq_right hlow.le]; rfl
  next hlow =>
    rw [max_eq_left (not_lt.1 hlow)]
    split
    next hhigh => rw [min_eq_right hhigh.le]; rfl
    next hhigh => rw [min_eq_left (not_lt.1 hhigh), BitVec.ofNat_toNat, BitVec.setWidth_eq]

/-- Settles O17. -/
theorem servoPosClampsIntoPending : Obligations.ServoPosClampsIntoPending := by
  refine ⟨encodedAs_of_encode (op := 0x10) (by decide) fun _ => rfl, fun f s hs => ⟨?_, fun hbad => ?_⟩⟩
  · intro c k hch hc ha hb hrsv
    refine command_goodOperand hs (servoPosOperand_eq_some.2 ⟨hch, hc, ha, hrsv, hb, rfl⟩)
      (State.updChain_eq_setChain ?_)
    rw [clampPos_eq]
    rfl
  · refine command_badOperand hs fun _ hx => ?_
    obtain ⟨hch, hc, ha, hrsv, hb, -⟩ := servoPosOperand_eq_some.1 hx
    bv_omega

/-- Settles O18: where the slot is not a servo, the chain is written back as it is. -/
theorem servoColorOnServosOnly : Obligations.ServoColorOnServosOnly := by
  refine ⟨encodedAs_of_encode (op := 0x11) (by decide) fun _ => rfl, fun f s hs => ⟨?_, fun hbad => ?_⟩⟩
  · intro c k hch hc ha hlo hhi hrsv
    have hops := servoColorOperand_eq_some.2 ⟨hch, hc, ha, hrsv, hlo, hhi, rfl⟩
    constructor
    · intro hservo
      exact command_goodOperand hs hops (State.updChain_eq_setChain (if_pos hservo))
    · intro hother
      exact command_goodOperand hs hops ((State.updChain_eq_setChain (if_neg hother)).trans (s.setChain_self c))
  · refine command_badOperand hs fun _ hx => ?_
    obtain ⟨hch, hc, ha, hrsv, hlo, hhi, -⟩ := servoColorOperand_eq_some.1 hx
    bv_omega

/-- Settles O19. -/
theorem servoReadoutSetsTheReadoutCode : Obligations.ServoReadoutSetsTheReadoutCode := by
  refine ⟨encodedAs_of_encode (op := 0x12) (by decide) fun _ => rfl, fun f s hs => ⟨?_, fun hbad => ?_⟩⟩
  · intro c k hch hc ha hb hrsv
    exact command_goodOperand hs (chainSlotOnlyOperand_eq_some.2 ⟨hch, hc, ha, hrsv, hb⟩) rfl
  · refine command_badOperand hs fun _ hx => ?_
    obtain ⟨hch, hc, ha, hrsv, hb⟩ := chainSlotOnlyOperand_eq_some.1 hx
    bv_omega

/-! ### LED colours (R184) -/

/-- Two 3-bit fields packed into bits 5:3 and 2:0 of a byte, as a number, without and with bit 6. -/
theorem packed_fields_eq_ofNat (hi lo : BitVec 3) :
    (hi.setWidth 8 <<< 3 &&& 0x38) ||| (lo.setWidth 8 &&& 0x07) = BitVec.ofNat 8 (8 * hi.toNat + lo.toNat) ∧
      0x40 ||| (hi.setWidth 8 <<< 3 &&& 0x38) ||| (lo.setWidth 8 &&& 0x07) =
        BitVec.ofNat 8 (0x40 + 8 * hi.toNat + lo.toNat) := by
  revert hi lo
  decide

theorem ledFields_toNat (arg0 : Word) :
    (ledFields arg0).red.toNat = arg0.toNat % 8 ∧ (ledFields arg0).green.toNat = arg0.toNat / 16 % 8 ∧
      (ledFields arg0).blue.toNat = arg0.toNat / 256 % 8 ∧ (ledFields arg0).fade.toNat = arg0.toNat / 4096 % 8 := by
  simp [ledFields, Nat.shiftRight_eq_div_pow]

theorem ledByte1_ledFields (arg0 : Word) :
    ledByte1 (ledFields arg0) = BitVec.ofNat 8 (8 * (arg0.toNat / 16 % 8) + arg0.toNat % 8) := by
  obtain ⟨hred, hgreen, -, -⟩ := ledFields_toNat arg0
  rw [← hred, ← hgreen]
  exact (packed_fields_eq_ofNat _ _).1

theorem ledByte2_ledFields (arg0 : Word) :
    ledByte2 (ledFields arg0) = BitVec.ofNat 8 (0x40 + 8 * (arg0.toNat / 4096 % 8) + arg0.toNat / 256 % 8) := by
  obtain ⟨-, -, hblue, hfade⟩ := ledFields_toNat arg0
  rw [← hblue, ← hfade]
  exact (packed_fields_eq_ofNat _ _).2

/-- Settles O20. -/
theorem ledCommandWritesThePair : Obligations.LedCommandWritesThePair := by
  refine ⟨encodedAs_of_encode (op := 0x13) (by decide) fun _ => rfl, fun f s hs => ⟨?_, fun hbad => ?_⟩⟩
  · intro c hch hc ha hb hrsv harg0
    refine command_goodOperand hs (ledOperand_eq_some.2 ⟨hch, hc, ha, hb, hrsv, harg0, rfl⟩)
      (State.updChain_eq_setChain ?_)
    rw [ledByte1_ledFields, ledByte2_ledFields]
  · refine command_badOperand hs fun _ hx => ?_
    obtain ⟨hch, hc, ha, hb, hrsv, harg0, -⟩ := ledOperand_eq_some.1 hx
    bv_omega

/-! ### The reported position (R185) -/

theorem Chain.reportedPos_setWidth (ch : Chain) (k : Fin 4) :
    (ch.reportedPos k).setWidth 32 =
      if ch.slots[k].mtype = .servo ∧ ch.lpValid = true ∧ ch.lpSlot = k then
        BitVec.ofNat 32 ch.slots[k].lastInput.toNat
      else 0 := by
  rw [Chain.reportedPos, apply_ite (BitVec.setWidth 32), BitVec.ofNat_toNat]
  rfl

/-- Settles O21. -/
theorem queryPosReadsTheLastPolledServo : Obligations.QueryPosReadsTheLastPolledServo := by
  refine ⟨encodedAs_of_encode (op := 0x14) (by decide) fun _ => rfl, fun f s hs => ⟨?_, fun hbad => ?_⟩⟩
  · intro c k hch hc ha hb hrsv
    refine command_goodOperand hs (chainSlotOnlyOperand_eq_some.2 ⟨hch, hc, ha, hrsv, hb⟩) ?_
    rw [Chain.reportedPos_setWidth]
  · refine command_badOperand hs fun _ hx => ?_
    obtain ⟨hch, hc, ha, hrsv, hb⟩ := chainSlotOnlyOperand_eq_some.1 hx
    bv_omega

/-! ### The reset of one chain (R187) -/

/-- Settles O22: the effect is `Chain.resetWith`, whose fields are the reset values. -/
theorem busInitResetsOneChain : Obligations.BusInitResetsOneChain := by
  refine ⟨encodedAs_of_encode (op := 0x15) (by decide) fun _ => rfl, fun f s hs => ⟨?_, fun hbad => ?_⟩⟩
  · intro c hch hc ha hb hrsv
    exact command_goodOperand hs (chainOperand_eq_some.2 ⟨hch, hc, ha, hb, hrsv⟩) rfl
  · refine command_badOperand hs fun _ hx => ?_
    obtain ⟨hch, hc, ha, hb, hrsv⟩ := chainOperand_eq_some.1 hx
    bv_omega

end Sys2Proof.Machine

/-! PROOFS. The ramp (43_motion_scheduler.md R212, R213): its value as a natural number, and how it moves as the window
runs out. -/

namespace Sys2Proof.Machine

open Sys2Proof

/-- The part of the distance `m` that the ramp has covered with `rem` of `d` ticks to go, in the division's truncation. -/
def rampShare (m : Nat) (d rem : Int) : Nat := m * (d - rem).toNat / d.toNat

theorem rampShare_le (m : Nat) {d rem : Int} (h : 0 ≤ rem) : rampShare m d rem ≤ m := by
  refine Nat.div_le_of_le_mul ?_
  rw [Nat.mul_comm d.toNat]
  exact Nat.mul_le_mul_left m (by omega)

theorem rampShare_antitone (m : Nat) {d rem rem' : Int} (h : rem' ≤ rem) : rampShare m d rem ≤ rampShare m d rem' :=
  Nat.div_le_div_right (Nat.mul_le_mul_left m (by omega))

theorem rampShare_start (m : Nat) (d : Int) : rampShare m d d = 0 := by
  simp [rampShare]

/-- Upward the ramp adds its share: what lies at or below the target fits a word. -/
theorem toNat_ramp_up {x g : Word} {d rem : Int} (h : x.toNat ≤ g.toNat) (hrem : 0 ≤ rem) :
    (ramp x g d rem).toNat = x.toNat + rampShare (g.toNat - x.toNat) d rem := by
  have hle := rampShare_le (g.toNat - x.toNat) (d := d) hrem
  have e : ramp x g d rem = BitVec.ofNat 32 (x.toNat + rampShare (g.toNat - x.toNat) d rem) := if_pos h
  rw [e, BitVec.toNat_ofNat, Nat.mod_eq_of_lt (by omega)]

/-- Downward the ramp takes its share off. -/
theorem toNat_ramp_down {x g : Word} {d rem : Int} (h : g.toNat ≤ x.toNat) (hrem : 0 ≤ rem) :
    (ramp x g d rem).toNat = x.toNat - rampShare (x.toNat - g.toNat) d rem := by
  obtain heq | hlt := h.eq_or_lt
  · rw [toNat_ramp_up heq.ge hrem, heq]
    simp [rampShare]
  · have e : ramp x g d rem = BitVec.ofNat 32 (x.toNat - rampShare (x.toNat - g.toNat) d rem) := if_neg hlt.not_ge
    rw [e, BitVec.toNat_ofNat, Nat.mod_eq_of_lt (by omega)]

/-- The ramp starts at the cached position (R213). -/
theorem ramp_start (x g : Word) {d : Int} (hd : 0 ≤ d) : ramp x g d d = x := by
  refine BitVec.eq_of_toNat_eq ?_
  obtain h | h := Nat.le_total x.toNat g.toNat
  · rw [toNat_ramp_up h hd, rampShare_start, Nat.add_zero]
  · rw [toNat_ramp_down h hd, rampShare_start, Nat.sub_zero]

/-- Settles O43: the share covered grows as `rem` falls, and is at most the whole distance. -/
theorem rampIsMonotoneAndBounded : Obligations.RampIsMonotoneAndBounded := by
  intro x g d rem rem' h1 hle hd
  have hrem : 0 ≤ rem := by omega
  have hrem' : 0 ≤ rem' := by omega
  refine ⟨fun h => ?_, fun h => ?_, ramp_start x g (hrem.trans hd)⟩
  · have hmono := rampShare_antitone (g.toNat - x.toNat) (d := d) hle
    have hbound := rampShare_le (g.toNat - x.toNat) (d := d) hrem'
    rw [toNat_ramp_up h hrem, toNat_ramp_up h hrem']
    omega
  · have hmono := rampShare_antitone (x.toNat - g.toNat) (d := d) hle
    have hbound := rampShare_le (x.toNat - g.toNat) (d := d) hrem'
    rw [toNat_ramp_down h hrem, toNat_ramp_down h hrem']
    omega

/-- What the head's window puts out, `e` ticks into the session (R211, R212). -/
def Actuator.rampAt (x : Actuator) (w : Waypoint) (e : Nat) : Word :=
  ramp x.actual w.target (w.stop.toNat - w.start.toNat) (w.stop.toNat - e)

theorem rampShare_window (m start stop e : Nat) :
    rampShare m (stop - start) (stop - e) = m * (e - start) / (stop - start) := by
  rw [rampShare, sub_sub_sub_cancel_left, Int.toNat_sub, Int.toNat_sub]

theorem Actuator.toNat_rampAt_up {x : Actuator} {w : Waypoint} {e : Nat} (h : x.actual.toNat ≤ w.target.toNat)
    (hstop : e ≤ w.stop.toNat) :
    (x.rampAt w e).toNat = x.actual.toNat +
      (w.target.toNat - x.actual.toNat) * (e - w.start.toNat) / (w.stop.toNat - w.start.toNat) := by
  rw [Actuator.rampAt, toNat_ramp_up h (by omega), rampShare_window]

theorem Actuator.toNat_rampAt_down {x : Actuator} {w : Waypoint} {e : Nat} (h : w.target.toNat ≤ x.actual.toNat)
    (hstop : e ≤ w.stop.toNat) :
    (x.rampAt w e).toNat = x.actual.toNat -
      (x.actual.toNat - w.target.toNat) * (e - w.start.toNat) / (w.stop.toNat - w.start.toNat) := by
  rw [Actuator.rampAt, toNat_ramp_down h (by omega), rampShare_window]

end Sys2Proof.Machine

/-! PROOFS. The motion tick (43_motion_scheduler.md R210 to R219): what it makes of one session and of one actuator, and
what it leaves alone. -/

namespace Sys2Proof.Machine

open Sys2Proof

theorem exec_tick {s : State} (hdue : s.TickDue) : exec .tick s = .next s.tick :=
  (whenStarted_started hdue.1).trans (atDeadline_due hdue.2)

theorem armOf_eq_iff {i : Fin 8} {a : Fin 2} : armOf i = a ↔ i.val / 4 = a.val := by
  revert i a; decide

/-! ### The sessions (R217, R218) -/

theorem State.armEmpty_eq_false {s : State} {a : Fin 2} :
    s.armEmpty a = false ↔ ∃ i : Fin 8, i.val / 4 = a.val ∧ s.acts[i].list ≠ [] := by
  simp only [State.armEmpty, List.all_eq_false, mem_armActuators, ← armOf_eq_iff, List.isEmpty_iff, eq_comm (a := a)]

theorem State.tickArm_session_same (s : State) (a : Fin 2) :
    (s.tickArm a).sessions[a] = { s.sessions[a] with active := s.sessions[a].active && !s.armEmpty a } := by
  unfold State.tickArm
  cases hact : s.sessions[a].active with
  | false => rw [if_neg Bool.false_ne_true, Bool.false_and, ← hact]
  | true =>
    rw [if_pos rfl, Bool.true_and]
    cases he : s.armEmpty a with
    | true => rw [if_pos rfl, State.updSession_same]; rfl
    | false =>
      have hkeep : ((armActuators a).foldl (fun s i => s.stepActuator a i) s).sessions = s.sessions :=
        foldl_keeps (P := fun x => x.sessions = s.sessions)
          (fun x i => stepActuator_keeps (P := fun x => x.sessions = s.sessions) (fun _ _ _ h => h) (fun _ _ h => h)
            (fun _ _ _ _ _ h => h) x a i) _ _ rfl
      rw [if_neg Bool.false_ne_true, hkeep, Bool.not_false, ← hact]

/-- The other arm's part of a tick leaves an arm's lists alone. -/
theorem State.tickArm_armEmpty_other (s : State) {a b : Fin 2} (h : a ≠ b) : (s.tickArm a).armEmpty b = s.armEmpty b := by
  have hacts : ∀ i ∈ armActuators b, (s.tickArm a).acts[i] = s.acts[i] := fun i hi =>
    congrArg ActView.act ((s.view_tickArm a i).trans
      (if_neg fun hai => h (hai.1.trans ((mem_armActuators i b).1 hi).symm)))
  rw [Bool.eq_iff_iff, State.armEmpty, State.armEmpty, List.all_eq_true, List.all_eq_true]
  exact forall₂_congr fun i hi => by rw [hacts i hi]

/-- The tick, for one session: it ends where it finds the four lists empty (R217). -/
theorem State.tick_session (s : State) (a : Fin 2) :
    s.tick.sessions[a] = { s.sessions[a] with active := s.sessions[a].active && !s.armEmpty a } := by
  have key : ∀ s : State, ((s.tickArm 0).tickArm 1).sessions[a] =
      { s.sessions[a] with active := s.sessions[a].active && !s.armEmpty a } := by
    intro s
    have h01 : (0 : Fin 2) ≠ 1 := by decide
    match a with
    | 0 => rw [State.tickArm_session_other _ h01.symm, State.tickArm_session_same]
    | 1 => rw [State.tickArm_session_same, State.tickArm_session_other _ h01, State.tickArm_armEmpty_other _ h01]
  exact key _

/-! ### The step of one actuator (R210 to R216) -/

section

variable {i : Fin 8} {x : ActView} {w : Waypoint} {ws : List Waypoint}

theorem ActView.step_nil (hl : x.act.list = []) : x.step i = x := by
  rw [ActView.step, hl]

theorem ActView.step_early (hl : x.act.list = w :: ws) (he : x.elapsed.toNat < w.start.toNat) : x.step i = x := by
  rw [ActView.step, hl]
  exact if_pos he

theorem ActView.step_over (hl : x.act.list = w :: ws) (hstart : w.start.toNat ≤ x.elapsed.toNat)
    (hstop : w.stop.toNat ≤ x.elapsed.toNat) :
    x.step i =
      { x with
        act := { list := ws, actual := w.target, outReg := w.target }, records := x.records ++ [⟨x.t, i, w.target⟩]
        flag := x.flag || decide (w.stop.toNat ≤ w.start.toNat ∧ w.stop.toNat ≠ x.elapsed.toNat) } := by
  rw [ActView.step, hl]
  exact (if_neg hstart.not_gt).trans (if_pos hstop)

theorem ActView.step_inside (hl : x.act.list = w :: ws) (hstart : w.start.toNat ≤ x.elapsed.toNat)
    (hstop : x.elapsed.toNat < w.stop.toNat) :
    x.step i =
      { x with
        act := { x.act with outReg := x.act.rampAt w x.elapsed.toNat }
        records := x.records ++ [⟨x.t, i, x.act.rampAt w x.elapsed.toNat⟩] } := by
  rw [ActView.step, hl]
  exact (if_neg hstart.not_gt).trans (if_neg hstop.not_ge)

/-- A step writes at most one record (R219). -/
theorem ActView.step_records (i : Fin 8) (x : ActView) :
    ∃ rs, (x.step i).records = x.records ++ rs ∧ rs.length ≤ 1 := by
  cases hl : x.act.list with
  | nil => exact ⟨[], by simp [ActView.step_nil hl]⟩
  | cons w ws =>
    obtain he | hstart := lt_or_ge x.elapsed.toNat w.start.toNat
    · exact ⟨[], by simp [ActView.step_early hl he]⟩
    · obtain hstop | hstop := lt_or_ge x.elapsed.toNat w.stop.toNat
      · exact ⟨[_], by rw [ActView.step_inside hl hstart hstop], le_rfl⟩
      · exact ⟨[_], by rw [ActView.step_over hl hstart hstop], le_rfl⟩

end

/-! ### The tick of one actuator -/

/-- What concerns an actuator at the tick that `s` is due for: one more tick of the session has gone (R210, R211). -/
def State.tickView (s : State) (i : Fin 8) : ActView :=
  { s.view i with elapsed := s.now + 1 - s.sessions[armOf i].ref }

theorem State.view_tick_active {s : State} {i : Fin 8} (h : s.sessions[armOf i].active = true) :
    s.tick.view i = (s.tickView i).step i := by
  rw [State.view_tick, if_pos h]
  rfl

theorem State.view_tick_inactive {s : State} {i : Fin 8} (h : s.sessions[armOf i].active = false) :
    s.tick.view i = s.tickView i := by
  rw [State.view_tick, if_neg (ne_true_of_eq_false h)]
  rfl

theorem State.view_tick_records (s : State) (i : Fin 8) :
    (s.tick.view i).records = (s.view i).records ++ newRecords s s.tick i := by
  obtain ⟨recs, htrace, -⟩ := s.tick_trace
  have e : (s.tick.view i).records = s.tick.trace.filter fun r => r.act == i := rfl
  rw [e, newRecords_of_append htrace, htrace, List.filter_append]
  rfl

/-- The registers, the records and the flag of an actuator after a tick, read off its view. -/
theorem State.tick_of_view {s : State} {i : Fin 8} {x : ActView} {rs : List OutRecord} (h : s.tick.view i = x)
    (hrs : x.records = (s.view i).records ++ rs) :
    s.tick.acts[i] = x.act ∧ newRecords s s.tick i = rs ∧ s.tick.err.getLsbD (8 + i.val) = x.flag := by
  subst h
  exact ⟨rfl, List.append_cancel_left (s.view_tick_records i ▸ hrs), rfl⟩

theorem State.tick_of_view_unchanged {s : State} {i : Fin 8} (h : s.tick.view i = s.tickView i) :
    s.tick.acts[i] = s.acts[i] ∧ newRecords s s.tick i = [] ∧
      s.tick.err.getLsbD (8 + i.val) = s.err.getLsbD (8 + i.val) :=
  State.tick_of_view h (List.append_nil _).symm

theorem length_newRecords_tick (s : State) (i : Fin 8) : (newRecords s s.tick i).length ≤ 1 := by
  have hrecs := s.view_tick_records i
  cases hact : s.sessions[armOf i].active with
  | false =>
    obtain ⟨-, h, -⟩ := State.tick_of_view_unchanged (State.view_tick_inactive hact)
    simp [h]
  | true =>
    obtain ⟨rs, hrs, hlen⟩ := (s.tickView i).step_records i
    obtain ⟨-, h, -⟩ := State.tick_of_view (State.view_tick_active hact) hrs
    rwa [h]

/-- Settles O39. -/
theorem inactiveArmIsNotEvaluated : Obligations.InactiveArmIsNotEvaluated := by
  intro s a i hdue ha hact
  obtain rfl := armOf_eq_iff.2 ha
  obtain ⟨hacts, hrecs, hflag⟩ := State.tick_of_view_unchanged (State.view_tick_inactive hact)
  refine ⟨_, exec_tick hdue, hacts, hrecs, ?_, hflag⟩
  rw [State.tick_session, hact, Bool.false_and, ← hact]

/-- Settles O40: `ActView.step_early` before the window, `ActView.step_inside` in it. -/
theorem tickInterpolatesTheHead : Obligations.TickInterpolatesTheHead := by
  intro s a i w ws e hdue ha hact hl he
  obtain rfl := armOf_eq_iff.2 ha
  subst he
  have hview := State.view_tick_active hact
  refine ⟨_, exec_tick hdue, fun hearly => ?_, fun hstart hstop => ?_⟩
  · exact State.tick_of_view_unchanged (hview.trans (ActView.step_early hl hearly))
  · refine ⟨s.acts[i].rampAt w _, fun h => ?_, fun h => ?_,
      State.tick_of_view (hview.trans (ActView.step_inside hl hstart hstop)) rfl⟩
    · exact Actuator.toNat_rampAt_up h hstop.le
    · exact Actuator.toNat_rampAt_down h.le hstop.le

/-- Settles O41. -/
theorem tickRetiresTheHead : Obligations.TickRetiresTheHead := by
  intro s a i w ws e hdue ha hact hl he hstart hstop
  obtain rfl := armOf_eq_iff.2 ha
  subst he
  exact ⟨_, exec_tick hdue,
    State.tick_of_view ((State.view_tick_active hact).trans (ActView.step_over hl hstart hstop)) rfl⟩

/-- An actuator with an empty list is skipped, whether its arm is active or not (R210). -/
theorem State.view_tick_nil {s : State} {i : Fin 8} (hl : s.acts[i].list = []) : s.tick.view i = s.tickView i := by
  cases hact : s.sessions[armOf i].active with
  | false => exact State.view_tick_inactive hact
  | true => exact (State.view_tick_active hact).trans (ActView.step_nil hl)

/-- Settles O42. -/
theorem sessionEndsOnEmptyLists : Obligations.SessionEndsOnEmptyLists := by
  intro s a hdue
  refine ⟨_, exec_tick hdue, ?_, fun i _ hl => State.tick_of_view_unchanged (State.view_tick_nil hl)⟩
  rw [State.tick_session, Bool.and_eq_true_iff, Bool.not_eq_true', State.armEmpty_eq_false]

/-! ### The whole tick (R210, R219) -/

/-- The bits of ERR outside WINDOW_ERR are no window flag's (R78). -/
theorem getLsbD_windowErr_mask (i : Fin 8) {k : Nat} (hk : k < 8 ∨ 16 ≤ k) :
    (ErrFlag.mask (.windowErr i)).getLsbD k = false := by
  have hbits : ∀ (i : Fin 8) (j : Fin 32), j.val < 8 ∨ 16 ≤ j.val →
      (ErrFlag.mask (.windowErr i)).getLsbD j.val = false := by decide
  obtain h | h := lt_or_ge k 32
  · exact hbits i ⟨k, h⟩ hk
  · exact BitVec.getLsbD_of_ge _ _ h

theorem State.tick_err_outside {s : State} {k : Nat} (hk : k < 8 ∨ 16 ≤ k) :
    s.tick.err.getLsbD k = s.err.getLsbD k :=
  tick_keeps (P := fun x => x.err.getLsbD k = s.err.getLsbD k) (fun _ _ h => h)
    (stepActuator_keeps (fun _ _ _ h => h)
      (fun x i h => by rw [State.raiseErr_err, BitVec.getLsbD_or, getLsbD_windowErr_mask i hk, Bool.or_false, h])
      fun _ _ _ _ _ h => h) s rfl

/-- Outside the motion state, the trace and ERR a tick leaves everything as it is (R219). -/
theorem State.tick_only_motion (s : State) :
    ({ s.tick with
        now := s.now, nextTick := s.nextTick, sessions := s.sessions, acts := s.acts, trace := s.trace
        err := s.err } : State) = s :=
  tick_keeps
    (P := fun x => ({ x with
        now := s.now, nextTick := s.nextTick, sessions := s.sessions, acts := s.acts, trace := s.trace
        err := s.err } : State) = s)
    (fun _ _ h => h) (stepActuator_keeps (fun _ _ _ h => h) (fun _ _ h => h) fun _ _ _ _ _ h => h) s rfl

/-- No two of a tick's records are of one actuator (R219). -/
theorem State.nodup_tick_records {s : State} {recs : List OutRecord} (h : s.tick.trace = s.trace ++ recs) :
    (recs.map OutRecord.act).Nodup := by
  refine List.nodup_iff_count_le_one.2 fun i => ?_
  rw [List.count, List.countP_map, List.countP_eq_length_filter]
  exact newRecords_of_append h i ▸ length_newRecords_tick s i

/-- Settles O38. -/
theorem tickCountsTimeAndTouchesMotionOnly : Obligations.TickCountsTimeAndTouchesMotionOnly := by
  intro s hdue
  obtain ⟨-, -, -, hnow, hnext, -⟩ := s.tick_frame
  obtain ⟨recs, htrace, ht⟩ := s.tick_trace
  exact ⟨_, exec_tick hdue, hnow, hnext, fun a => by rw [State.tick_session],
    ⟨recs, htrace, ht, State.nodup_tick_records htrace⟩, fun _ hk => State.tick_err_outside hk, s.tick_only_motion⟩

end Sys2Proof.Machine

/-! PROOFS. The WaypointList and MotionSession commands (44_motion_commands.md R240 to R243): each is one update of the
addressed actuator or of the masked arms, or a write of RESULT, and happens on the operands that its operand form accepts. -/

namespace Sys2Proof.Machine

open Sys2Proof

/-! ### The start of sessions (R242) -/

/-- MOVE_START's snapshot of one actuator. -/
def Actuator.snapshot (x : Actuator) : Actuator := { x with actual := x.outReg }

theorem State.foldl_snapshot_getElem (l : List (Fin 8)) (s : State) (j : Fin 8) :
    (l.foldl (fun s i => s.updAct i Actuator.snapshot) s).acts[j] =
      if j ∈ l then s.acts[j].snapshot else s.acts[j] := by
  induction l generalizing s with
  | nil => simp
  | cons i l ih =>
    rw [List.foldl_cons, ih, State.updAct_getElem]
    by_cases h : i = j
    · subst h
      simp [Actuator.snapshot]
    · simp [h, Ne.symm h]

/-- `s` with the sessions of the arms in `p` started: the snapshot of their actuators, `ref` and `active`. -/
def State.startWhere (s : State) (p : Fin 2 → Bool) : State :=
  { s with
    acts := Vector.ofFn fun i : Fin 8 => if p (armOf i) then s.acts[i].snapshot else s.acts[i]
    sessions := Vector.ofFn fun a : Fin 2 => if p a then { active := true, ref := s.now } else s.sessions[a] }

theorem State.startWhere_acts (s : State) (p : Fin 2 → Bool) (i : Fin 8) :
    (s.startWhere p).acts[i] = if p (armOf i) then s.acts[i].snapshot else s.acts[i] :=
  Vector.getElem_ofFn i.isLt

theorem State.startWhere_sessions (s : State) (p : Fin 2 → Bool) (a : Fin 2) :
    (s.startWhere p).sessions[a] = if p a then { active := true, ref := s.now } else s.sessions[a] :=
  Vector.getElem_ofFn a.isLt

theorem State.startArm_eq (s : State) (a : Fin 2) : s.startArm a = s.startWhere fun b => a == b := by
  have hform : s.startArm a =
      { s with
        acts := ((armActuators a).foldl (fun s i => s.updAct i Actuator.snapshot) s).acts
        sessions := s.sessions.set a { active := true, ref := s.now } } := by
    match a with
    | 0 | 1 => rfl
  rw [hform, State.startWhere]
  congr 1
  · refine Vector.ext fun b hb => ?_
    simp [Vector.getElem_set, Fin.ext_iff]
  · refine Vector.ext fun i hi => (s.foldl_snapshot_getElem _ ⟨i, hi⟩).trans ?_
    simp [mem_armActuators]

theorem State.startWhere_false (s : State) : (s.startWhere fun _ => false) = s := by
  have hacts : (Vector.ofFn fun i : Fin 8 => s.acts[i]) = s.acts := Vector.ext fun i hi => Vector.getElem_ofFn hi
  have hsessions : (Vector.ofFn fun a : Fin 2 => s.sessions[a]) = s.sessions :=
    Vector.ext fun a ha => Vector.getElem_ofFn ha
  simp only [State.startWhere, Bool.false_eq_true, if_false, hacts, hsessions]

/-- A snapshot of a snapshot is the snapshot, so an arm in both may be started once. -/
theorem State.startWhere_startWhere (s : State) (p q : Fin 2 → Bool) :
    (s.startWhere p).startWhere q = s.startWhere fun a => q a || p a := by
  refine congrArg₂ (fun ss xs => ({ s with sessions := ss, acts := xs } : State))
    (congrArg Vector.ofFn (funext fun a => ?_)) (congrArg Vector.ofFn (funext fun i => ?_))
  · rw [State.startWhere_sessions]
    beta_reduce
    cases q a with
    | false | true => rfl
  · rw [State.startWhere_acts]
    beta_reduce
    cases q (armOf i) with
    | false => rfl
    | true =>
      cases p (armOf i) with
      | false | true => rfl

theorem State.startArm_if_eq (s : State) (a : Fin 2) (b : Bool) :
    (if b then s.startArm a else s) = s.startWhere fun a' => b && a == a' := by
  cases b with
  | false => exact s.startWhere_false.symm
  | true => exact s.startArm_eq a

/-- MOVE_START starts exactly the arms of the mask (R242). -/
theorem State.startMasked_eq (s : State) (m : BitVec 2) : s.startMasked m = s.startWhere fun a => m.getLsbD a.val := by
  rw [State.startMasked, State.startArm_if_eq, State.startArm_if_eq, State.startWhere_startWhere]
  congr 1
  funext a
  match a with
  | 0 | 1 => simp

/-- Settles O15. -/
theorem moveStartStartsTheMaskedArms : Obligations.MoveStartStartsTheMaskedArms := by
  refine ⟨encodedAs_of_encode (op := 0x03) (by decide) fun _ => rfl, fun f s hs => ⟨?_, fun hbad => ?_⟩⟩
  · intro ha hb hch hrsv
    have hmask : f.a.toNat = (f.a.setWidth 2).toNat := by
      rw [BitVec.toNat_setWidth, Nat.mod_eq_of_lt (Nat.lt_succ_of_le ha)]
    have hbits : (fun a : Fin 2 => (f.a.setWidth 2).getLsbD a.val) = fun a : Fin 2 => f.a.getLsbD a.val :=
      funext fun a => by rw [BitVec.getLsbD_setWidth, decide_eq_true a.isLt, Bool.true_and]
    have harm (i : Fin 8) : (armOf i).val = i.val / 4 := (armOf_eq_iff.1 rfl).symm
    refine command_goodOperand hs (maskOperand_eq_some.2 ⟨hmask, hb, hch, hrsv⟩) ((s.startMasked_eq _).trans ?_)
    rw [hbits, State.startWhere]
    simp only [harm, Actuator.snapshot]
  · refine command_badOperand hs fun m hx => ?_
    obtain ⟨ha, hb, hch, hrsv⟩ := maskOperand_eq_some.1 hx
    bv_omega

/-! ### The lists (R240, R241) -/

/-- R240's index cuts the list after its longest prefix of smaller starts. -/
theorem insertWaypoint_eq_takeWhile_append (w : Waypoint) (l : List Waypoint) :
    insertWaypoint w l =
      l.takeWhile (fun v => decide (v.start.toNat < w.start.toNat)) ++
        w :: l.dropWhile fun v => decide (v.start.toNat < w.start.toNat) := by
  simp only [insertWaypoint_eq_orderedInsert, List.orderedInsert_eq_take_drop, Order.Preimage, not_le]

/-- Settles O13. -/
theorem wpEnqInsertsInOrder : Obligations.WpEnqInsertsInOrder := by
  refine ⟨encodedAs_of_encode (op := 0x01) (by decide) fun _ => rfl, fun f s hs => ⟨?_, fun hbad => ?_⟩⟩
  · intro i ha hb hch hrsv
    have hops := actOperand_eq_some.2 ⟨ha, hb, hch, hrsv⟩
    constructor
    · intro hroom
      refine command_goodOperand hs hops ((if_neg hroom).trans ?_)
      rw [State.updAct, insertWaypoint_eq_takeWhile_append]
      rfl
    · intro hfull
      exact command_goodOperand hs hops (if_pos hfull)
  · refine command_badOperand hs fun i hx => ?_
    obtain ⟨ha, hb, hch, hrsv⟩ := actOperand_eq_some.1 hx
    bv_omega

/-- Settles O14. -/
theorem wpClearEmptiesOneList : Obligations.WpClearEmptiesOneList := by
  refine ⟨encodedAs_of_encode (op := 0x02) (by decide) fun _ => rfl, fun f s hs => ⟨?_, fun hbad => ?_⟩⟩
  · intro i ha hb hch hrsv
    exact command_goodOperand hs (actOperand_eq_some.2 ⟨ha, hb, hch, hrsv⟩) rfl
  · refine command_badOperand hs fun i hx => ?_
    obtain ⟨ha, hb, hch, hrsv⟩ := actOperand_eq_some.1 hx
    bv_omega

/-! ### The active flag (R243) -/

theorem setWidth_ofBool (b : Bool) : (BitVec.ofBool b).setWidth 32 = if b then (1 : Word) else 0 := by
  cases b with
  | false => rfl
  | true => rfl

/-- Settles O16. -/
theorem moveQueryReadsTheActiveFlag : Obligations.MoveQueryReadsTheActiveFlag := by
  refine ⟨encodedAs_of_encode (op := 0x04) (by decide) fun _ => rfl, fun f s hs => ⟨?_, fun hbad => ?_⟩⟩
  · intro a ha hb hch hrsv
    refine command_goodOperand hs (armOperand_eq_some.2 ⟨ha, hb, hch, hrsv⟩) ?_
    rw [setWidth_ofBool]
  · refine command_badOperand hs fun a hx => ?_
    obtain ⟨ha, hb, hch, hrsv⟩ := armOperand_eq_some.1 hx
    bv_omega

end Sys2Proof.Machine

/-! PROOFS. Deadlines (60_exceptions.md R281, R298): a timed event happens at its own deadline alone, time advances to the
earliest deadline and no further, no step leaves a deadline behind, and the block always has a step of its own. -/

namespace Sys2Proof.Machine

open Sys2Proof

/-! ### Timed events off their deadlines (R281) -/

theorem atDeadline_notDue {s x : State} {d : Nat} (h : s.t ≠ d) : atDeadline s d x = .fault .notDue := if_neg h

theorem exec_busTimer_notDue {s : State} {c : Fin 3} (hs : s.started = true) (hc : c.val < s.cfg.nChains.toNat)
    (ht : s.t ≠ s.chains[c].busDeadline) : exec (busTimerOf c) s = .fault .notDue :=
  (onChain_some hs (chainIndex_ofNat hc)).trans (atDeadline_notDue ht)

theorem exec_tick_notDue {s : State} (hs : s.started = true) (ht : s.t ≠ s.nextTick) : exec .tick s = .fault .notDue :=
  (whenStarted_started hs).trans (atDeadline_notDue ht)

/-- Settles O9. -/
theorem timedEventsOnlyAtTheirDeadlines : Obligations.TimedEventsOnlyAtTheirDeadlines :=
  ⟨fun _ _ => exec_busTimer_notDue, fun _ => exec_tick_notDue⟩

/-! ### The deadlines -/

theorem State.forall_deadlines {s : State} {P : Nat → Prop} :
    (∀ d ∈ s.deadlines, P d) ↔ P s.nextTick ∧ ∀ c : Fin 3, c.val < s.cfg.nChains.toNat → P s.chains[c].busDeadline := by
  have hlive : ∀ c : Fin 3, c ∈ s.liveChains ↔ c.val < s.cfg.nChains.toNat := fun c => by
    rw [State.liveChains, List.mem_filter, State.hasChain_iff]
    exact and_iff_right (by fin_cases c <;> decide)
  simp only [State.deadlines, List.forall_mem_cons, List.forall_mem_map, hlive]

theorem State.nextDeadline_isLeast (s : State) :
    s.nextDeadline ∈ s.deadlines ∧ ∀ d ∈ s.deadlines, s.nextDeadline ≤ d := by
  have hmin : s.deadlines.min? = some s.nextDeadline := by
    rw [State.nextDeadline, State.deadlines, List.min?_cons', List.foldl_cons, min_self]
  exact List.min?_eq_some_iff.1 hmin

/-! ### Advances of time (R281) -/

section
variable {s : State} {t' : Nat} (hs : s.started = true)
include hs

theorem advanceTo_notLater (h : t' ≤ s.t) : advanceTo s t' = .fault .timeNotLater :=
  (whenStarted_started hs).trans (if_pos h)

theorem advanceTo_free (hlater : s.t < t') (h : ∀ d ∈ s.deadlines, t' ≤ d) :
    advanceTo s t' = .next { s with t := t' } := by
  rw [advanceTo, whenStarted_started hs, if_neg (not_le.2 hlater), if_pos (by simpa using h)]

theorem advanceTo_blocked (hlater : s.t < t') (h : ¬ ∀ d ∈ s.deadlines, t' ≤ d) :
    advanceTo s t' = .fault .deadlinePassed := by
  rw [advanceTo, whenStarted_started hs, if_neg (not_le.2 hlater), if_neg (by simpa using h)]

end

theorem step_advance {s : State} {t' : Nat} {rest : List Input} (hin : s.inputs = .advance t' :: rest) :
    step s = advanceTo { s with inputs := rest } t' := by
  rw [step, nextStep, hin]
  rfl

/-- Settles O10. -/
theorem timeAdvancesPastNoDeadline : Obligations.TimeAdvancesPastNoDeadline := by
  intro s t' rest hs hin
  rw [step_advance hin]
  refine ⟨advanceTo_notLater (s := { s with inputs := rest }) hs, fun hlater htick hchains => ?_, fun hlater hpast => ?_⟩
  · exact advanceTo_free hs hlater (State.forall_deadlines.2 ⟨htick, hchains⟩)
  · refine advanceTo_blocked hs hlater fun h => ?_
    obtain ⟨htick, hchains⟩ := State.forall_deadlines.1 h
    obtain hpast | ⟨c, hc, hpast⟩ := hpast
    · exact absurd htick (not_le.2 hpast)
    · exact absurd (hchains c hc) (not_le.2 hpast)

/-! ### No step leaves a deadline behind (R281) -/

/-- A handler sets the timer anew, from the present instant on (R26). -/
theorem Chain.le_onTimer_busDeadline (ch : Chain) (cfg : Config) (t : Nat) : t ≤ (ch.onTimer cfg t).busDeadline := by
  unfold Chain.onTimer
  cases ch.phase with
  | start | data | stop1 | stop2 | turn | complete => exact Nat.le_add_right _ _
  | await =>
    cases ch.timeoutFlag with
    | true => exact Nat.le_add_right _ _
    | false =>
      by_cases hm : ch.bitMask = 0x80
      · exact Chain.onSample_last hm cfg t ▸ Nat.le_add_right _ _
      · exact Chain.onSample_more hm cfg t ▸ Nat.le_add_right _ _

theorem Chain.le_onLine_busDeadline {ch : Chain} (cfg : Config) {t : Nat} (v : Bool) (h : t ≤ ch.busDeadline) :
    t ≤ (ch.onLine cfg t v).busDeadline := by
  by_cases he : ch.lineIn = false ∧ v = true ∧ ch.edgeArmed = true
  · obtain ⟨hin, rfl, he⟩ := he
    rw [Chain.onLine_edge cfg t hin he]
    exact Nat.le_add_right _ _
  · rwa [Chain.onLine_noEdge cfg t he]

theorem State.TimeInv.of_frame {s s' : State} (h : s.TimeInv) (ht : s'.t = s.t) (hcfg : s'.cfg = s.cfg)
    (hchains : s'.chains = s.chains) (hnext : s.nextTick ≤ s'.nextTick) : s'.TimeInv := by
  obtain ⟨htick, hdl⟩ := State.forall_deadlines.1 h
  refine State.forall_deadlines.2 ⟨ht ▸ htick.trans hnext, ?_⟩
  rwa [ht, hcfg, hchains]

theorem State.TimeInv.updChain {s : State} (h : s.TimeInv) (c : Fin 3) {f : Chain → Chain}
    (hf : s.t ≤ s.chains[c].busDeadline → s.t ≤ (f s.chains[c]).busDeadline) : (s.updChain c f).TimeInv := by
  obtain ⟨htick, hdl⟩ := State.forall_deadlines.1 h
  exact State.forall_deadlines.2
    ⟨htick, fun c' hc' => State.updChain_keeps (P := fun ch => s.t ≤ ch.busDeadline) hf c' (hdl c' hc')⟩

theorem State.resetAt_timeInv (cfg : Config) (t : Nat) : (State.resetAt cfg t).TimeInv :=
  State.forall_deadlines.2 ⟨Nat.le_add_right _ _, fun c _ => by fin_cases c <;> exact Nat.le_add_right _ _⟩

theorem ExecEffect.keeps_timeInv {s s' : State} {i : Instr} (h : ExecEffect s i s') (hs : s.TimeInv) : s'.TimeInv := by
  cases h with
  | servoPos f c | servoReadout f c | led f c => exact hs.updChain c id
  | servoColor f c k =>
    refine hs.updChain c fun h => ?_
    split
    · exact h
    · exact h
  | busInit f c => exact hs.updChain c fun _ => Nat.le_add_right _ _
  | busTimer ch c => exact hs.updChain c fun _ => Chain.le_onTimer_busDeadline _ _ _
  | line v ch c => exact hs.updChain c (Chain.le_onLine_busDeadline _ v)
  | moveStart f m =>
    obtain ⟨hcfg, -, ht, -, hnext, -⟩ := s.startMasked_frame m
    exact hs.of_frame ht hcfg (s.startMasked_chains m) hnext.ge
  | tick =>
    obtain ⟨hcfg, -, ht, -, hnext, -⟩ := s.tick_frame
    exact hs.of_frame ht hcfg s.tick_chains (hnext ▸ Nat.le_add_right _ _)
  | reset => exact State.resetAt_timeInv s.cfg s.t
  | nop | badOperand | queueFull | enqueue | clear | moveQuery | queryPos => exact hs

/-- Settles O53: an instruction sets a deadline at the present instant or later, and an advance stops at the deadlines. -/
theorem stepPassesNoDeadline : Obligations.StepPassesNoDeadline := by
  intro s s' hs h
  cases step_next h with
  | exec i rest n _ h _ => exact (exec_next h).1.keeps_timeInv hs
  | advance rest t' _ hfree => exact hfree
  | flag | args | clearErr | read => exact hs

/-! ### The block's own step (R298) -/

theorem step_autonomous {s : State} (hin : s.inputs = []) : step s = autonomousStep s := by
  rw [step, nextStep, hin]

/-- Where several events are due, the free value picks one of them (R282). -/
theorem autonomousStep_due {s : State} (h : s.dueEvents ≠ []) :
    ∃ i ∈ s.dueEvents, ∃ n, autonomousStep s = exec i { s with choices := n } := by
  unfold autonomousStep
  split
  case h_1 hnil => exact absurd hnil h
  case h_2 e hone => exact ⟨e, by simp [hone], s.choices, rfl⟩
  case h_3 e es _ hmany =>
    have hpick : Config.freeChoice s.choices % (e :: es).length < (e :: es).length := Nat.mod_lt _ (by simp)
    refine ⟨_, ?_, _, rfl⟩
    rw [hmany, List.getD_eq_getElem _ _ hpick]
    exact List.getElem_mem hpick

theorem autonomousStep_idle {s : State} (h : s.dueEvents = []) : autonomousStep s = advanceTo s s.nextDeadline := by
  rw [autonomousStep, h]

theorem State.ne_deadline_of_dueEvents_eq_nil {s : State} (h : s.dueEvents = []) : ∀ d ∈ s.deadlines, s.t ≠ d := by
  rw [State.dueEvents, List.append_eq_nil_iff, List.map_eq_nil_iff, List.filter_eq_nil_iff] at h
  obtain ⟨hchains, htick⟩ := h
  simp only [State.deadlines, List.forall_mem_cons, List.forall_mem_map]
  refine ⟨fun ht => ?_, fun c hc ht => hchains c hc (beq_iff_eq.2 ht.symm)⟩
  rw [if_pos ht.symm] at htick
  cases htick

/-- Settles O11: a due event answers whatever the free value picks, and where none is due the earliest deadline lies ahead. -/
theorem blockGoesOnByItself : Obligations.BlockGoesOnByItself := by
  intro s hs htime hin
  rw [step_autonomous hin]
  by_cases hdue : s.dueEvents = []
  · obtain ⟨hmem, hleast⟩ := s.nextDeadline_isLeast
    have hlater : s.t < s.nextDeadline :=
      lt_of_le_of_ne (htime _ hmem) (State.ne_deadline_of_dueEvents_eq_nil hdue _ hmem)
    exact .inr (.inr ⟨_, hlater, (autonomousStep_idle hdue).trans (advanceTo_free hs hlater hleast), hmem, hleast⟩)
  · obtain ⟨i, hi, n, hstep⟩ := autonomousStep_due hdue
    rw [hstep]
    obtain ⟨c, rfl, hc, ht⟩ | ⟨rfl, ht⟩ := dueEvents_mem hi
    · have hexec := exec_busTimer (s := { s with choices := n }) ⟨hs, hc, ht⟩ rfl
      exact .inl ⟨c, n, _, ⟨hs, hc, ht⟩, hexec, hexec⟩
    · have hexec := exec_tick (s := { s with choices := n }) ⟨hs, ht⟩
      exact .inr (.inl ⟨n, _, ⟨hs, ht⟩, hexec, hexec⟩)

end Sys2Proof.Machine

/-! PROOFS. The bus and the motion scheduler share no state (60_exceptions.md R295). Each half of the instructions is executed
alike, and leaves the other half of the state as it is, whatever that half holds. -/

namespace Sys2Proof.Machine

open Sys2Proof

/-! ### The instructions of the motion scheduler -/

theorem ExecEffect.chains_eq {s s' : State} {i : Instr} (h : ExecEffect s i s') (hi : motionInstr i = true) :
    s'.chains = s.chains := by
  cases h with
  | moveStart f m => exact s.startMasked_chains m
  | tick => exact s.tick_chains
  | nop | badOperand | queueFull | enqueue | clear | moveQuery => rfl
  | servoPos | servoColor | servoReadout | led | queryPos | busInit | busTimer | line | reset => cases hi

/-- `command_map` with the effects on the two states given apart, so that each is read off from its own command. -/
theorem command_commutes {α : Type} {s s' : State} {ops : Option α} {eff eff' : α → State}
    (h : command s ops eff = .next s') (g : State → State) (hs : (g s).started = s.started)
    (hb : (g s).raiseErr .badOperand = g (s.raiseErr .badOperand)) (he : ∀ x, eff' x = g (eff x)) :
    command (g s) ops eff' = .next (g s') := by
  obtain ⟨hstarted, ⟨rfl, rfl⟩ | ⟨x, rfl, rfl⟩⟩ := command_next h
  · exact hb ▸ command_none (hs.trans hstarted)
  · exact he x ▸ command_some (hs.trans hstarted)

theorem exec_withChains {i : Instr} {s s' : State} (hi : motionInstr i = true) (h : exec i s = .next s')
    (chains : Vector Chain 3) : exec i (s.withChains chains) = .next (s'.withChains chains) := by
  have hcommand {α : Type} {ops : Option α} {eff eff' : α → State} (h : command s ops eff = .next s')
      (he : ∀ x, eff' x = (eff x).withChains chains) :=
    command_commutes h (State.withChains · chains) rfl rfl he
  cases i with
  | nop f =>
    obtain ⟨hs, h⟩ := whenStarted_next h
    obtain rfl := Host.Outcome.next.inj h
    exact whenStarted_started hs
  | wpEnq f =>
    refine hcommand h fun j => ?_
    rw [apply_ite (State.withChains · chains)]
    rfl
  | wpClear f | moveQuery f => exact hcommand h fun _ => rfl
  | moveStart f => exact hcommand h fun m => s.withChains_startMasked chains m
  | tick =>
    cases (exec_next h).1 with
    | badOperand _ hop => simp [encode] at hop
    | tick hdue => rw [exec_tick (s := s.withChains chains) hdue, s.withChains_tick]
  | modServoPos | modServoColor | modServoReadout | modLed | modQueryPos | modBusInit | busTimer | line | reset => cases hi

/-! ### The instructions of the bus -/

theorem ExecEffect.motion_eq {s s' : State} {i : Instr} (h : ExecEffect s i s') (hi : busInstr i = true) :
    s'.acts = s.acts ∧ s'.sessions = s.sessions ∧ s'.now = s.now ∧ s'.nextTick = s.nextTick ∧ s'.trace = s.trace := by
  cases h with
  | nop | badOperand | servoPos | servoColor | servoReadout | led | queryPos | busInit | busTimer | line =>
    exact ⟨rfl, rfl, rfl, rfl, rfl⟩
  | queueFull | enqueue | clear | moveStart | moveQuery | tick | reset => cases hi

theorem exec_withMotion {i : Instr} {s s' : State} (hi : busInstr i = true) (h : exec i s = .next s')
    (acts : Vector Actuator 8) (sessions : Vector Session 2) (now : Word) (nextTick : Nat) (trace : List OutRecord) :
    exec i (s.withMotion acts sessions now nextTick trace) =
      .next (s'.withMotion acts sessions now nextTick trace) := by
  have hcommand {α : Type} {ops : Option α} {eff eff' : α → State} (h : command s ops eff = .next s')
      (he : ∀ x, eff' x = (eff x).withMotion acts sessions now nextTick trace) :=
    command_commutes h (State.withMotion · acts sessions now nextTick trace) rfl rfl he
  cases i with
  | nop f =>
    obtain ⟨hs, h⟩ := whenStarted_next h
    obtain rfl := Host.Outcome.next.inj h
    exact whenStarted_started hs
  | modServoPos f | modServoColor f | modServoReadout f | modLed f | modQueryPos f | modBusInit f =>
    exact hcommand h fun _ => rfl
  | busTimer ch =>
    obtain ⟨hs, c, hc, h⟩ := onChain_next h
    obtain ⟨ht, rfl⟩ := atDeadline_next h
    exact (onChain_some hs hc).trans (atDeadline_due ht)
  | line v ch =>
    obtain ⟨hs, c, hc, h⟩ := onChain_next h
    obtain rfl := Host.Outcome.next.inj h
    exact onChain_some hs hc
  | wpEnq | wpClear | moveStart | moveQuery | tick | reset => cases hi

/-! ### Every instruction -/

theorem motionInstr_or_busInstr {i : Instr} (hi : i ≠ .reset) : motionInstr i = true ∨ busInstr i = true := by
  cases i with
  | nop | wpEnq | wpClear | moveStart | moveQuery | tick => exact .inl rfl
  | modServoPos | modServoColor | modServoReadout | modLed | modQueryPos | modBusInit | busTimer | line => exact .inr rfl
  | reset => exact absurd rfl hi

/-- Settles O59: an instruction of the one half leaves the other's registers as they are and commutes with a change of them. -/
theorem busAndMotionShareNothing : Obligations.BusAndMotionShareNothing := by
  refine ⟨fun i s s' h hi => ?_, fun i s s' chains hi h => ?_, fun i s s' acts sessions now nextTick trace hi h => ?_⟩
  · exact (motionInstr_or_busInstr hi).imp (exec_next h).1.chains_eq (exec_next h).1.motion_eq
  · exact ⟨(exec_next h).1.chains_eq hi, exec_withChains hi h chains⟩
  · obtain ⟨hacts, hsessions, hnow, hnext, htrace⟩ := (exec_next h).1.motion_eq hi
    exact ⟨hacts, hsessions, hnow, hnext, htrace, exec_withMotion hi h acts sessions now nextTick trace⟩

end Sys2Proof.Machine

/-! PROOFS. An edge at the instant at which its response window ends (60_exceptions.md R282), in both orders. -/

namespace Sys2Proof.Machine

open Sys2Proof

theorem State.after_busTimer {s : State} {c : Fin 3} (hdue : s.BusDue c) :
    s.after (busTimerOf c) = some (s.setChain c (s.chains[c].onTimer s.cfg s.t)) := by
  rw [State.after, exec_busTimer hdue rfl]
  rfl

theorem Chain.onSample_shiftReg (ch : Chain) (cfg : Config) (t : Nat) : (ch.onSample cfg t).shiftReg = ch.sampledByte := by
  by_cases hm : ch.bitMask = 0x80
  · rw [Chain.onSample_last hm]
  · rw [Chain.onSample_more hm]

/-- The edge closes the window and takes its end from the timer: the next expiry is the sample, T_SAMPLE later (R151). -/
theorem State.after_edge {s : State} {c : Fin 3} (hs : s.started = true) (hc : c.val < s.cfg.nChains.toNat)
    (he : s.chains[c].edgeArmed = true) (hin : s.chains[c].lineIn = false) :
    s.after (lineOf c true) = some (s.setChain c (s.chains[c].atSample s.cfg s.t true)) := by
  have hedge : s.chains[c].onLine s.cfg s.t true = s.chains[c].atSample s.cfg s.t true := Chain.onLine_edge _ _ hin he
  rw [State.after_line hs hc, hedge]

theorem Chain.atSample_expire_shiftReg {ch : Chain} (hp : ch.phase = .await) (cfg : Config) (t : Nat) :
    ((ch.atSample cfg t true).expire cfg).shiftReg = ch.shiftReg ||| ch.bitMask := by
  rw [Chain.atSample_expire hp, Chain.bitReceived, Chain.onSample_shiftReg]
  rfl

/-- The timeout turns the detector off, so an edge that comes after it is a change of level and no more (R141, R150). -/
theorem Chain.onTimeout_onLine (ch : Chain) (cfg : Config) (t : Nat) (v : Bool) :
    (ch.onTimeout cfg t).onLine cfg t v = { ch.onTimeout cfg t with lineIn := v } :=
  Chain.onLine_noEdge cfg t (by simp [Chain.onTimeout])

/-- Settles O60: the edge moves the deadline T_SAMPLE on, and the timeout turns the detector off. -/
theorem edgeAtTheEndOfItsWindow : Obligations.EdgeAtTheEndOfItsWindow := by
  rintro s c ⟨-, hsample, -, -⟩ ⟨hs, hc, ht⟩ hp hf he hin
  constructor
  · have hchain := s.setChain_same c (s.chains[c].atSample s.cfg s.t true)
    refine ⟨_, State.after_edge hs hc he hin, exec_busTimer_notDue hs hc ?_, by rw [hchain]; rfl, by rw [hchain]; rfl,
      _, State.setChain_callback hs hc _, rfl, ?_⟩
    · rw [hchain]
      exact (Nat.lt_add_of_pos_right hsample).ne
    · rw [State.setChain_same, Chain.atSample_expire_shiftReg hp]
  · have hchain := s.setChain_same c (s.chains[c].onTimeout s.cfg s.t)
    refine ⟨s.setChain c (s.chains[c].onTimeout s.cfg s.t), ?_, by rw [hchain]; rfl, by rw [hchain]; rfl, ?_⟩
    · rw [State.after_busTimer ⟨hs, hc, ht⟩, Chain.onTimer_timeout hp hf]
    · rw [State.setChain_after_line hs hc, Chain.onTimeout_onLine, hchain]
      exact congrArg some (s.setChain_setChain c _ _).symm

end Sys2Proof.Machine

/-! PROOFS. Reset and what is refused (70_reset_and_hazards.md R300 to R302, 30_encoding.md R111): before the first RESET
nothing else has a meaning, and a RESET answers a state that meets every invariant. -/

namespace Sys2Proof.Machine

open Sys2Proof

/-! ### What is refused (R301, R111) -/

theorem exec_before {i : Instr} {s : State} (hs : s.started = false) (hi : i ≠ .reset) :
    exec i s = .refused .beforeReset := by
  cases i with
  | reset => exact absurd rfl hi
  | nop | wpEnq | wpClear | moveStart | moveQuery | modServoPos | modServoColor | modServoReadout | modLed | modQueryPos
  | modBusInit | busTimer | line | tick => exact whenStarted_before hs

theorem eventStep_invalid {s : State} {w : Word} (h : ∀ i, decodeEvent w ≠ .ok i) :
    eventStep s w = whenStarted s (.refused .invalidEventWord) := by
  unfold eventStep
  cases hw : decodeEvent w with
  | ok i => exact absurd hw (h i)
  | error e => rfl

theorem eventStep_before {s : State} {w : Word} (hs : s.started = false) (hw : decodeEvent w ≠ .ok .reset) :
    eventStep s w = .refused .beforeReset := by
  unfold eventStep
  cases hi : decodeEvent w with
  | ok i => exact exec_before hs fun h => hw (h ▸ hi)
  | error e => exact whenStarted_before hs

theorem perform_before {s : State} {x : Input} (hs : s.started = false)
    (hx : ∀ w, x = .event w → decodeEvent w ≠ .ok .reset) : perform s x = .refused .beforeReset := by
  cases x with
  | event w => exact eventStep_before hs (hx w rfl)
  | write | read | advance => exact whenStarted_before hs

/-- No timed event is a RESET, so before the first one the block does nothing by itself. -/
theorem autonomousStep_before {s : State} (hs : s.started = false) : autonomousStep s = .refused .beforeReset := by
  by_cases hdue : s.dueEvents = []
  · exact (autonomousStep_idle hdue).trans (whenStarted_before hs)
  · obtain ⟨i, hi, n, hstep⟩ := autonomousStep_due hdue
    refine hstep.trans (exec_before hs ?_)
    obtain ⟨c, rfl, -⟩ | ⟨rfl, -⟩ := dueEvents_mem hi
    · exact Instr.noConfusion
    · exact Instr.noConfusion

theorem step_input {s : State} {x : Input} {rest : List Input} (hin : s.inputs = x :: rest) :
    step s = perform { s with inputs := rest } x := by
  rw [step, nextStep, hin]

theorem onChain_noSuchChain {s : State} {ch : BitVec 2} {eff : Fin 3 → StepOutcome} (hs : s.started = true)
    (hch : s.cfg.nChains.toNat ≤ ch.toNat) : onChain s ch eff = .refused .noSuchChain := by
  rw [onChain, whenStarted_started hs, chainIndex_eq_none.2 hch]

/-- Settles O8. -/
theorem whatIsNoEventIsRefused : Obligations.WhatIsNoEventIsRefused := by
  refine ⟨fun _ _ => exec_before, fun s x rest hs hin hx => ?_, fun s hs hin => ?_, fun s ch hs hch => ?_,
    fun s w rest hs hin hw => ?_⟩
  · exact (step_input hin).trans (perform_before hs hx)
  · exact (step_autonomous hin).trans (autonomousStep_before hs)
  · exact ⟨onChain_noSuchChain hs hch, fun _ => onChain_noSuchChain hs hch⟩
  · exact (step_event hin).trans ((eventStep_invalid hw).trans (whenStarted_started hs))

/-! ### RESET (R300) -/

/-- Settles O45: `State.resetAt` holds the reset values, and `execReset` keeps the rest. -/
theorem resetSetsEveryRegister : Obligations.ResetSetsEveryRegister :=
  ⟨decodeEvent_eq_ok_iff.2 (by decide), fun _ => rfl⟩

theorem State.resetAt_busInv (cfg : Config) (t : Nat) : (State.resetAt cfg t).BusInv :=
  fun c => by fin_cases c <;> exact Chain.resetWith_busInv _ _

theorem State.resetAt_listInv (cfg : Config) (t : Nat) : (State.resetAt cfg t).ListInv :=
  fun i => by fin_cases i <;> exact ListOk.nil _

theorem State.resetAt_inv {cfg : Config} (t : Nat) (hcfg : cfg.wf) : (State.resetAt cfg t).Inv :=
  ⟨rfl, hcfg, State.resetAt_busInv cfg t, State.resetAt_listInv cfg t, State.resetAt_timeInv cfg t, BitVec.zero_and,
    .nil, fun _ hr => absurd hr List.not_mem_nil⟩

/-- Parameters, time and trace apart, a RESET keeps nothing that the invariants speak of. -/
theorem exec_reset_inv {s : State} (hcfg : s.cfg.wf) (htrace : s.TraceInv) :
    ∃ s', exec .reset s = .next s' ∧ s'.Inv := by
  obtain ⟨hstarted, hwf, hbus, hlist, htime, herr, -⟩ := State.resetAt_inv s.t hcfg
  exact ⟨_, rfl, hstarted, hwf, hbus, hlist, htime, herr, htrace⟩

/-- Settles O55. -/
theorem resetMeetsTheInvariants : Obligations.ResetMeetsTheInvariants :=
  ⟨fun _ => exec_reset_inv, fun _ => State.resetAt_inv, State.resetAt_inv 0 (by decide)⟩

end Sys2Proof.Machine

/-! PROOFS. One waypoint through its whole session (70_reset_and_hazards.md R331): an induction over the ticks, each one tick
of the motion scheduler (43_motion_scheduler.md R210 to R214). -/

namespace Sys2Proof.Machine

open Sys2Proof

/-! ### The ticks of a session -/

/-- The instant of the next motion tick has come (R51). -/
def State.atNextTick (s : State) : State := { s with t := s.nextTick }

/-- The state after the next motion tick. -/
def State.nextTicked (s : State) : State := s.atNextTick.tick

theorem State.nextTicked_frame (s : State) : s.nextTicked.started = s.started ∧ s.nextTicked.now = s.now + 1 := by
  obtain ⟨-, hstarted, -, hnow, -⟩ := s.atNextTick.tick_frame
  exact ⟨hstarted, hnow⟩

theorem State.after_atNextTick {s : State} (hs : s.started = true) : s.atNextTick.after .tick = some s.nextTicked := by
  rw [State.after, exec_tick (s := s.atNextTick) ⟨hs, rfl⟩]
  rfl

theorem afterTicks_eq_iterate {s : State} (hs : s.started = true) (n : Nat) :
    afterTicks n s = some (State.nextTicked^[n] s) := by
  induction n generalizing s with
  | zero => rfl
  | succ n ih =>
    have hstarted : s.nextTicked.started = true := s.nextTicked_frame.1.trans hs
    calc
      afterTicks (n + 1) s = (s.atNextTick.after .tick).bind (afterTicks n) := rfl
      _ = afterTicks n s.nextTicked := by rw [State.after_atNextTick hs, Option.bind_some]
      _ = some (State.nextTicked^[n + 1] s) := ih hstarted

/-- `n` ticks into arm `a`'s session, which started at the tick count `ref` (R211). -/
structure State.InSession (s : State) (a : Fin 2) (ref : Word) (n : Nat) : Prop where
  session : s.sessions[a] = { active := true, ref := ref }
  now : s.now = ref + BitVec.ofNat 32 n

section

variable {s : State} {i : Fin 8} {ref : Word} {n : Nat} (h : s.InSession (armOf i) ref n)
include h

/-- The session goes on while one of the arm's lists holds a waypoint (R217). -/
theorem State.InSession.nextTicked (hl : s.acts[i].list ≠ []) : s.nextTicked.InSession (armOf i) ref (n + 1) where
  session := by
    have hlist : s.atNextTick.armEmpty (armOf i) = false := State.armEmpty_eq_false.2 ⟨i, armOf_eq_iff.1 rfl, hl⟩
    have hsession : s.atNextTick.sessions[armOf i] = { active := true, ref := ref } := h.session
    rw [State.nextTicked, State.tick_session, hlist, hsession]
    rfl
  now := by
    rw [s.nextTicked_frame.2, h.now, BitVec.ofNat_add, BitVec.add_assoc]
    rfl

theorem State.InSession.nextTicked_act : s.nextTicked.acts[i] = ((s.atNextTick.tickView i).step i).act := by
  have hact : s.atNextTick.sessions[armOf i].active = true := congrArg Session.active h.session
  exact congrArg ActView.act (State.view_tick_active hact)

/-- The ticks are counted modulo 2^32 and the stop is a word, so a session's ticks up to it are told apart (R211). -/
theorem State.InSession.tickView_elapsed (hn : n + 1 < 2 ^ 32) : (s.atNextTick.tickView i).elapsed.toNat = n + 1 := by
  have e : (s.atNextTick.tickView i).elapsed = s.now + 1 - s.sessions[armOf i].ref := rfl
  rw [e, h.session, h.now]
  bv_omega

end

/-! ### One waypoint (R211, R212, R214) -/

/-- The actuator `x` after `n` ticks of a session with the waypoint `w`, before its stop: it waits for the start, then it
puts out the ramp. -/
def Actuator.drivenFor (x : Actuator) (w : Waypoint) (n : Nat) : Actuator :=
  if 1 ≤ n ∧ w.start.toNat ≤ n then { x with outReg := x.rampAt w n } else x

theorem Actuator.drivenFor_eq (x : Actuator) (w : Waypoint) (n : Nat) :
    x.drivenFor w n = { x with outReg := (x.drivenFor w n).outReg } := by
  unfold Actuator.drivenFor
  split
  · rfl
  · rfl

theorem Actuator.drivenFor_list (x : Actuator) (w : Waypoint) (n : Nat) : (x.drivenFor w n).list = x.list := by
  rw [Actuator.drivenFor_eq]

section

variable {s : State} {i : Fin 8} {ref : Word} {n : Nat} (h : s.InSession (armOf i) ref n) {x : Actuator} {w : Waypoint}
  (hx : s.acts[i] = x.drivenFor w n) (hl : x.list = [w])
include h hx hl

/-- The waypoint is still there, so the session goes on. -/
theorem State.InSession.goes_on : s.nextTicked.InSession (armOf i) ref (n + 1) := by
  refine h.nextTicked ?_
  rw [hx, Actuator.drivenFor_list, hl]
  exact List.cons_ne_nil w []

theorem State.InSession.drives_on (hn : n + 1 < w.stop.toNat) : s.nextTicked.acts[i] = x.drivenFor w (n + 1) := by
  have he := h.tickView_elapsed (by omega)
  have hact : (s.atNextTick.tickView i).act = { x with outReg := (x.drivenFor w n).outReg } := hx.trans (x.drivenFor_eq w n)
  have hlist : (s.atNextTick.tickView i).act.list = [w] := (congrArg Actuator.list hact).trans hl
  rw [h.nextTicked_act]
  obtain hearly | hstart := lt_or_ge (n + 1) w.start.toNat
  · rw [ActView.step_early hlist (he ▸ hearly)]
    have hwait : ∀ m ≤ n + 1, x.drivenFor w m = x := fun m hm => if_neg (by omega)
    exact hx.trans ((hwait n n.le_succ).trans (hwait (n + 1) le_rfl).symm)
  · rw [ActView.step_inside hlist (he ▸ hstart) (he ▸ hn), he, hact]
    exact (if_pos ⟨n.succ_pos, hstart⟩).symm

theorem State.InSession.arrives (hn : n + 1 = w.stop.toNat) (hw : w.start.toNat < w.stop.toNat) :
    s.nextTicked.acts[i] = { list := [], actual := w.target, outReg := w.target } := by
  have he := h.tickView_elapsed (by omega)
  have hlist : (s.atNextTick.tickView i).act.list = [w] :=
    (congrArg Actuator.list hx).trans ((x.drivenFor_list w n).trans hl)
  rw [h.nextTicked_act, ActView.step_over hlist (by omega) (by omega)]

end

/-- Up to the waypoint's stop, tick by tick. -/
theorem State.InSession.iterate {s : State} {i : Fin 8} {ref : Word} (h : s.InSession (armOf i) ref 0) {w : Waypoint}
    (hl : s.acts[i].list = [w]) {n : Nat} (hn : n < w.stop.toNat) :
    (State.nextTicked^[n] s).InSession (armOf i) ref n ∧ (State.nextTicked^[n] s).acts[i] = s.acts[i].drivenFor w n := by
  induction n with
  | zero => exact ⟨h, (if_neg (by omega)).symm⟩
  | succ n ih =>
    obtain ⟨hsession, hx⟩ := ih (by omega)
    rw [Function.iterate_succ_apply']
    exact ⟨hsession.goes_on hx hl, hsession.drives_on hx hl hn⟩

/-- Settles O44: the ticks before the stop drive the actuator along the ramp, and the tick of the stop retires the waypoint
while the session still runs. -/
theorem waypointReachesItsTarget : Obligations.WaypointReachesItsTarget := by
  intro s a i w hs ha hact href hl hw
  obtain rfl := armOf_eq_iff.2 ha
  have h : s.InSession (armOf i) s.now 0 := ⟨by rw [← hact, ← href], (BitVec.add_zero _).symm⟩
  refine ⟨fun n h1 hstart hstop => ?_, _, afterTicks_eq_iterate hs w.stop.toNat, ?_⟩
  · obtain ⟨hsession, hx⟩ := h.iterate hl hstop
    have hdriven : s.acts[i].drivenFor w n = { s.acts[i] with outReg := s.acts[i].rampAt w n } := if_pos ⟨h1, hstart⟩
    refine ⟨_, afterTicks_eq_iterate hs n, ?_⟩
    rw [hx, hdriven, hsession.session]
    exact ⟨hl, rfl, rfl, rfl⟩
  · obtain ⟨n, hn⟩ := Nat.exists_eq_add_one.2 (Nat.zero_lt_of_lt hw)
    obtain ⟨hsession, hx⟩ := h.iterate hl (n := n) (by omega)
    obtain ⟨hactive, hnow⟩ := hsession.goes_on hx hl
    rw [hn, Function.iterate_succ_apply', hsession.arrives hx hl hn.symm hw, hactive, hnow, ← hn, BitVec.ofNat_toNat,
      BitVec.setWidth_eq]
    exact ⟨rfl, rfl, rfl, rfl, rfl⟩

end Sys2Proof.Machine
